-- ==== Sys2Proof/Word.lean ====
section
/-! DEFINITION. The word types of the block: 32-bit microcode words and the 128-bit slot (R10, R12, R50), lane
values and four-lane vectors (R11, R12), lane selectors and lane masks (R58, R60). -/

namespace Sys2Proof

/-- R12: a microcode word is 32 bits unsigned. -/
abbrev Word := BitVec 32

/-- R50: one instruction slot, four words of 32 bits; `w0` is `slot[0]`. -/
structure Slot where
  w0 : Word
  w1 : Word
  w2 : Word
  w3 : Word
deriving DecidableEq, Repr, Inhabited

/-- R10: `slot[k]` is word k. -/
def Slot.word (t : Slot) (k : Fin 4) : Word :=
  match k with
  | 0 => t.w0
  | 1 => t.w1
  | 2 => t.w2
  | 3 => t.w3

/-- The slot with word k replaced. -/
def Slot.setWord (t : Slot) (k : Fin 4) (w : Word) : Slot :=
  match k with
  | 0 => { t with w0 := w }
  | 1 => { t with w1 := w }
  | 2 => { t with w2 := w }
  | 3 => { t with w3 := w }

/-- The slot whose four words are zero (R81). -/
def Slot.zero : Slot := ⟨0, 0, 0, 0⟩

/-- R12: one value of the numeric format of `FP`. The format is not in the spec (R31, D19), so a lane value is known
by a code only: no instruction shifts, masks or adds codes, and what value a code stands for is the `FP` record's.
DESIGN CHOICE, safe: log entry 1. -/
structure Lane where
  code : Nat
deriving DecidableEq, Repr, Inhabited

/-- R11, R12: a four-lane vector; lanes x, y, z, w are lanes 0 to 3. -/
structure Vec4 where
  x : Lane
  y : Lane
  z : Lane
  w : Lane
deriving DecidableEq, Repr, Inhabited

/-- R11: `splat(s) = vec(s,s,s,s)`. -/
def Vec4.splat (s : Lane) : Vec4 := ⟨s, s, s, s⟩

/-- R11: `v[i]` is lane i. -/
def Vec4.get (v : Vec4) (i : Fin 4) : Lane :=
  match i with
  | 0 => v.x
  | 1 => v.y
  | 2 => v.z
  | 3 => v.w

/-- The vector whose lane i is `f i`. -/
def Vec4.build (f : Fin 4 → Lane) : Vec4 := ⟨f 0, f 1, f 2, f 3⟩

/-- R29: the two-component clip-range input. The spec gives its components no format: that they are lanes of `FP` is the
model's (DESIGN CHOICE, log entry 23). -/
structure Vec2 where
  x : Lane
  y : Lane
deriving DecidableEq, Repr, Inhabited

/-- R12, R58: a swizzle selector names one of the four source lanes. -/
inductive Sel where
  | x
  | y
  | z
  | w
deriving DecidableEq, Repr, Inhabited

/-- R58: selector value s selects lane s, with x = 0 up to w = 3. -/
def Sel.lane : Sel → Fin 4
  | .x => 0
  | .y => 1
  | .z => 2
  | .w => 3

/-- R12: a swizzle is one selector for each destination lane. -/
structure Swizzle where
  x : Sel
  y : Sel
  z : Sel
  w : Sel
deriving DecidableEq, Repr, Inhabited

/-- R58: the identity swizzle (X,Y,Z,W). -/
def Swizzle.identity : Swizzle := ⟨.x, .y, .z, .w⟩

/-- R90: the swizzle that selects one lane four times. -/
def Swizzle.broadcast (s : Sel) : Swizzle := ⟨s, s, s, s⟩

/-- R12, R60: a four-bit lane-enable field. -/
abbrev Mask := BitVec 4

end Sys2Proof
end

