-- ==== Sys2Proof/Config.lean ====
section
/-! DEFINITION. What the spec leaves to a parameter of the implementation: the numeric record `FP` (R31, D19), the
arbitrary int32 of an unrepresentable ARL (R150, D20), the instruction-memory limit `MAX_SLOTS` (R9, D29), the constant
texts (R129, D10), and the two modes of the static configuration (R9, R33). Every constant of this file has no value a proof can see. -/

namespace Sys2Proof

/-- R31: the numeric configuration record. The source gives formulas only, so format, rounding, NaN and subnormal
behaviour, the fusing of `mad` and the order of the sums of `dot3` and `dot4` are all fields of the record (R160). -/
structure FP where
  add : Lane → Lane → Lane
  mul : Lane → Lane → Lane
  neg : Lane → Lane
  div : Lane → Lane → Lane
  sqrt : Lane → Lane
  exp2 : Lane → Lane
  log2 : Lane → Lane
  pow : Lane → Lane → Lane
  min : Lane → Lane → Lane
  max : Lane → Lane → Lane
  lt : Lane → Lane → Bool
  ge : Lane → Lane → Bool
  gt : Lane → Lane → Bool
  eqzero : Lane → Bool
  /-- `mad a b c` is `a·b+c`; whether it is fused belongs to the record. -/
  mad : Lane → Lane → Lane → Lane
  /-- `dot3 ax ay az bx by bz`. -/
  dot3 : Lane → Lane → Lane → Lane → Lane → Lane → Lane
  /-- `dot4 (ax,ay,az,aw) (bx,by,bz,bw)`. -/
  dot4 : Vec4 → Vec4 → Lane
  /-- `clamp r lo hi`. -/
  clamp : Lane → Lane → Lane → Lane
  /-- The value of an integer. R31 lists it; no rule of the spec applies it. -/
  ofInt : Int → Lane
  /-- R150: the integer nearest to x in the direction of zero; none where x is NaN or infinite. -/
  toIntTrunc : Lane → Option Int
  /-- The exact constant 0. -/
  zero : Lane
  /-- The exact constant 1. -/
  one : Lane
  /-- RCC's bound 5.42101e-20 (R155). -/
  rccMin : Lane
  /-- RCC's bound 1.884467e19 (R155). -/
  rccMax : Lane
deriving Inhabited

/-- R9, R31, D19: the `FP` record this machine computes with, a parameter of the model. DESIGN CHOICE, safe: log entry 2. -/
opaque Config.fp : FP

/-- R150, D20: the arbitrary int32 that ARL takes where the truncation of `a.x` is no int32; `Config.arlDraw n` is the
n-th draw of a run. DESIGN CHOICE, safe: log entry 3. -/
opaque Config.arlDraw : Nat → BitVec 32

/-- R9, D29: the parameter `MAX_SLOTS`, the instruction-memory limit the caller guarantees. The spec adopts no number.
DESIGN CHOICE, safe: log entry 4. -/
opaque Config.maxSlots : Nat

/-- R122, D10: the constant text of the prologue, whose characters the source does not give. Log entry 5. -/
opaque Config.prologueText : String

/-- R129, D10: the constant text that opens the entry point. Log entry 5. -/
opaque Config.entryOpenText : String

/-- R129, D10: the constant text of the epilogue, which closes the entry point. Log entry 5. -/
opaque Config.epilogueText : String

/-- R9, R111, D17: how a partial-lane write places its lanes. -/
inductive PartialLaneMode where
  /-- Destination lane i takes result lane i: the default. -/
  | aligned
  /-- The j-th enabled destination lane, in x, y, z, w order, takes result lane j. -/
  | packed
deriving DecidableEq, Repr, Inhabited

/-- R39, D30: the byte order used when a model starts from bytes. -/
inductive WordOrder where
  /-- Least significant byte at the lowest address: the default. -/
  | littleEndian
  /-- Most significant byte at the lowest address: the spec names no second order (DESIGN CHOICE, log entry 24). -/
  | bigEndian
deriving DecidableEq, Repr, Inhabited

end Sys2Proof
end

