-- ==== Sys2Proof/Syntax.lean ====
section
/-! DEFINITION. The syntax: operands (R82), destinations (R98), the fields the emitter reads (R99), and `Instr`, one
constructor for each row of spec/opcode_table.json. A slot holds one MAC row and one ILU row, co-issued (R3, R70). -/

namespace Sys2Proof

/-- R3: the two co-issued units of a slot. -/
inductive UnitName where
  | mac
  | ilu
deriving DecidableEq, Repr, Inhabited

/-- R15: the three input operand slots of an instruction. -/
inductive OperandName where
  | a
  | b
  | c
deriving DecidableEq, Repr, Inhabited

/-- R52: the names of the 35 fields of a slot, in the table's order. -/
inductive FieldName where
  | ilu
  | mac
  | const
  | v
  | aNeg
  | aSwzX
  | aSwzY
  | aSwzZ
  | aSwzW
  | aR
  | aMux
  | bNeg
  | bSwzX
  | bSwzY
  | bSwzZ
  | bSwzW
  | bR
  | bMux
  | cNeg
  | cSwzX
  | cSwzY
  | cSwzZ
  | cSwzW
  | cRHigh
  | cRLow
  | cMux
  | outMacMask
  | outR
  | outIluMask
  | outOMask
  | outOrb
  | outAddress
  | outMux
  | a0x
  | final
deriving DecidableEq, Repr, Inhabited

/-- R67: the 14 variants of the MAC opcode field. -/
inductive MacOp where
  | nop
  | mov
  | mul
  | add
  | mad
  | dp3
  | dph
  | dp4
  | dst
  | min
  | max
  | slt
  | sge
  | arl
deriving DecidableEq, Repr, Inhabited

/-- R68: the 8 variants of the ILU opcode field. -/
inductive IluOp where
  | nop
  | mov
  | rcp
  | rcc
  | rsq
  | exp
  | log
  | lit
deriving DecidableEq, Repr, Inhabited

/-- R68, R90: the scalar-forcing set RCP, RCC, RSQ, EXP, LOG. -/
def IluOp.scalarForcing : IluOp → Bool
  | .nop => false
  | .mov => false
  | .rcp => true
  | .rcc => true
  | .rsq => true
  | .exp => true
  | .log => true
  | .lit => false

/-- R82: the register an operand names: a temporary `R{n}`, the slot's input attribute `v{n}`, or the constant
`c[addr]`, `c[A0+addr]` where `rel`. `invalid x` is operand x of a slot whose class field is 0, a class outside
{R, V, C} (R57, R88): the translator refuses the slot, and no well-formed instruction holds it. -/
inductive Source where
  | temp (n : BitVec 4)
  | attr (n : BitVec 4)
  | const (addr : BitVec 8) (rel : Bool)
  | invalid (x : OperandName)
deriving DecidableEq, Repr, Inhabited

/-- R82: a decoded operand: register, negate flag, four-lane swizzle. -/
structure Operand where
  src : Source
  neg : Bool
  swz : Swizzle
deriving DecidableEq, Repr, Inhabited

/-- R105, R106, R107: the destination of the named-output stage. -/
inductive OutDest where
  /-- ORB = 0: the constant `c[addr]`, the address already remapped. -/
  | const (addr : BitVec 8)
  /-- ORB = 1: named output j, `OUT_ADDRESS[3:0]`. -/
  | named (j : BitVec 4)
deriving DecidableEq, Repr, Inhabited

/-- R105: the named-output stage, where OUT_MUX gives it to this unit and OUT_O_MASK is not 0. -/
structure NamedOut where
  dest : OutDest
  mask : Mask
deriving DecidableEq, Repr, Inhabited

/-- R99: what the emitter reads beside the operands: OUT_R, the unit's own mask, whether the other unit's opcode is
not NOP, and the named-output stage where it is this unit's. -/
structure Out where
  reg : BitVec 4
  mask : Mask
  paired : Bool
  named : Option NamedOut
deriving DecidableEq, Repr, Inhabited

/-- One constructor for each row of spec/opcode_table.json. MAC operands are the consumed ones in A, B, C order (R69,
R114); the ILU's is operand C (R152). ARL carries neither OUT_R nor its mask: the emitter ignores both (R104, R150). -/
inductive Instr where
  | macNop
  | macMov (a : Operand) (o : Out)
  | macMul (a b : Operand) (o : Out)
  | macAdd (a c : Operand) (o : Out)
  | macMad (a b c : Operand) (o : Out)
  | macDp3 (a b : Operand) (o : Out)
  | macDph (a b : Operand) (o : Out)
  | macDp4 (a b : Operand) (o : Out)
  | macDst (a b : Operand) (o : Out)
  | macMin (a b : Operand) (o : Out)
  | macMax (a b : Operand) (o : Out)
  | macSlt (a b : Operand) (o : Out)
  | macSge (a b : Operand) (o : Out)
  | macArl (a : Operand) (named : Option NamedOut)
  | iluNop
  | iluMov (c : Operand) (o : Out)
  | iluRcp (c : Operand) (o : Out)
  | iluRcc (c : Operand) (o : Out)
  | iluRsq (c : Operand) (o : Out)
  | iluExp (c : Operand) (o : Out)
  | iluLog (c : Operand) (o : Out)
  | iluLit (c : Operand) (o : Out)
deriving DecidableEq, Repr, Inhabited

/-- R70: a decoded slot: its MAC instruction, its ILU instruction, and its final flag (R66). -/
structure SlotInstr where
  mac : Instr
  ilu : Instr
  final : Bool
deriving DecidableEq, Repr, Inhabited

/-- R70: the slot's instruction for one unit. -/
def SlotInstr.instr (d : SlotInstr) : UnitName → Instr
  | .mac => d.mac
  | .ilu => d.ilu

/-- The faults the instruction decoder raises on a slot (R163, R165); the translator adds the slot index. -/
inductive DecodeFault where
  /-- R88, R163: decoded operand x has class field 0. -/
  | invalidOperandClass (x : OperandName)
  /-- R115, R165: the MAC field holds 14 or 15. -/
  | reservedMacOpcode (value : BitVec 4)
deriving DecidableEq, Repr, Inhabited

/-- The unit whose row of the opcode table the instruction is. -/
def Instr.unit : Instr → UnitName
  | .macNop => .mac
  | .macMov _ _ => .mac
  | .macMul _ _ _ => .mac
  | .macAdd _ _ _ => .mac
  | .macMad _ _ _ _ => .mac
  | .macDp3 _ _ _ => .mac
  | .macDph _ _ _ => .mac
  | .macDp4 _ _ _ => .mac
  | .macDst _ _ _ => .mac
  | .macMin _ _ _ => .mac
  | .macMax _ _ _ => .mac
  | .macSlt _ _ _ => .mac
  | .macSge _ _ _ => .mac
  | .macArl _ _ => .mac
  | .iluNop => .ilu
  | .iluMov _ _ => .ilu
  | .iluRcp _ _ => .ilu
  | .iluRcc _ _ => .ilu
  | .iluRsq _ _ => .ilu
  | .iluExp _ _ => .ilu
  | .iluLog _ _ => .ilu
  | .iluLit _ _ => .ilu

/-- The MAC opcode of an instruction; an ILU instruction has none. -/
def Instr.macOp : Instr → Option MacOp
  | .macNop => some .nop
  | .macMov _ _ => some .mov
  | .macMul _ _ _ => some .mul
  | .macAdd _ _ _ => some .add
  | .macMad _ _ _ _ => some .mad
  | .macDp3 _ _ _ => some .dp3
  | .macDph _ _ _ => some .dph
  | .macDp4 _ _ _ => some .dp4
  | .macDst _ _ _ => some .dst
  | .macMin _ _ _ => some .min
  | .macMax _ _ _ => some .max
  | .macSlt _ _ _ => some .slt
  | .macSge _ _ _ => some .sge
  | .macArl _ _ => some .arl
  | .iluNop => none
  | .iluMov _ _ => none
  | .iluRcp _ _ => none
  | .iluRcc _ _ => none
  | .iluRsq _ _ => none
  | .iluExp _ _ => none
  | .iluLog _ _ => none
  | .iluLit _ _ => none

/-- The ILU opcode of an instruction; a MAC instruction has none. -/
def Instr.iluOp : Instr → Option IluOp
  | .macNop => none
  | .macMov _ _ => none
  | .macMul _ _ _ => none
  | .macAdd _ _ _ => none
  | .macMad _ _ _ _ => none
  | .macDp3 _ _ _ => none
  | .macDph _ _ _ => none
  | .macDp4 _ _ _ => none
  | .macDst _ _ _ => none
  | .macMin _ _ _ => none
  | .macMax _ _ _ => none
  | .macSlt _ _ _ => none
  | .macSge _ _ _ => none
  | .macArl _ _ => none
  | .iluNop => some .nop
  | .iluMov _ _ => some .mov
  | .iluRcp _ _ => some .rcp
  | .iluRcc _ _ => some .rcc
  | .iluRsq _ _ => some .rsq
  | .iluExp _ _ => some .exp
  | .iluLog _ _ => some .log
  | .iluLit _ _ => some .lit

/-- Operand A, where the instruction consumes it (R69). -/
def Instr.opA : Instr → Option Operand
  | .macNop => none
  | .macMov a _ => some a
  | .macMul a _ _ => some a
  | .macAdd a _ _ => some a
  | .macMad a _ _ _ => some a
  | .macDp3 a _ _ => some a
  | .macDph a _ _ => some a
  | .macDp4 a _ _ => some a
  | .macDst a _ _ => some a
  | .macMin a _ _ => some a
  | .macMax a _ _ => some a
  | .macSlt a _ _ => some a
  | .macSge a _ _ => some a
  | .macArl a _ => some a
  | .iluNop => none
  | .iluMov _ _ => none
  | .iluRcp _ _ => none
  | .iluRcc _ _ => none
  | .iluRsq _ _ => none
  | .iluExp _ _ => none
  | .iluLog _ _ => none
  | .iluLit _ _ => none

/-- Operand B, where the instruction consumes it (R69). -/
def Instr.opB : Instr → Option Operand
  | .macNop => none
  | .macMov _ _ => none
  | .macMul _ b _ => some b
  | .macAdd _ _ _ => none
  | .macMad _ b _ _ => some b
  | .macDp3 _ b _ => some b
  | .macDph _ b _ => some b
  | .macDp4 _ b _ => some b
  | .macDst _ b _ => some b
  | .macMin _ b _ => some b
  | .macMax _ b _ => some b
  | .macSlt _ b _ => some b
  | .macSge _ b _ => some b
  | .macArl _ _ => none
  | .iluNop => none
  | .iluMov _ _ => none
  | .iluRcp _ _ => none
  | .iluRcc _ _ => none
  | .iluRsq _ _ => none
  | .iluExp _ _ => none
  | .iluLog _ _ => none
  | .iluLit _ _ => none

/-- Operand C, where the instruction consumes it (R69, R152). -/
def Instr.opC : Instr → Option Operand
  | .macNop => none
  | .macMov _ _ => none
  | .macMul _ _ _ => none
  | .macAdd _ c _ => some c
  | .macMad _ _ c _ => some c
  | .macDp3 _ _ _ => none
  | .macDph _ _ _ => none
  | .macDp4 _ _ _ => none
  | .macDst _ _ _ => none
  | .macMin _ _ _ => none
  | .macMax _ _ _ => none
  | .macSlt _ _ _ => none
  | .macSge _ _ _ => none
  | .macArl _ _ => none
  | .iluNop => none
  | .iluMov c _ => some c
  | .iluRcp c _ => some c
  | .iluRcc c _ => some c
  | .iluRsq c _ => some c
  | .iluExp c _ => some c
  | .iluLog c _ => some c
  | .iluLit c _ => some c

/-- The emitter's fields, where the instruction has all of them (every row but the two NOPs and ARL). -/
def Instr.out : Instr → Option Out
  | .macNop => none
  | .macMov _ o => some o
  | .macMul _ _ o => some o
  | .macAdd _ _ o => some o
  | .macMad _ _ _ o => some o
  | .macDp3 _ _ o => some o
  | .macDph _ _ o => some o
  | .macDp4 _ _ o => some o
  | .macDst _ _ o => some o
  | .macMin _ _ o => some o
  | .macMax _ _ o => some o
  | .macSlt _ _ o => some o
  | .macSge _ _ o => some o
  | .macArl _ _ => none
  | .iluNop => none
  | .iluMov _ o => some o
  | .iluRcp _ o => some o
  | .iluRcc _ o => some o
  | .iluRsq _ o => some o
  | .iluExp _ o => some o
  | .iluLog _ o => some o
  | .iluLit _ o => some o

/-- The named-output stage, where it is this instruction's (R105). -/
def Instr.named : Instr → Option NamedOut
  | .macNop => none
  | .macMov _ o => o.named
  | .macMul _ _ o => o.named
  | .macAdd _ _ o => o.named
  | .macMad _ _ _ o => o.named
  | .macDp3 _ _ o => o.named
  | .macDph _ _ o => o.named
  | .macDp4 _ _ o => o.named
  | .macDst _ _ o => o.named
  | .macMin _ _ o => o.named
  | .macMax _ _ o => o.named
  | .macSlt _ _ o => o.named
  | .macSge _ _ o => o.named
  | .macArl _ n => n
  | .iluNop => none
  | .iluMov _ o => o.named
  | .iluRcp _ o => o.named
  | .iluRcc _ o => o.named
  | .iluRsq _ o => o.named
  | .iluExp _ o => o.named
  | .iluLog _ o => o.named
  | .iluLit _ o => o.named

/-- R114: the operand list, only the consumed operands, in the order A, B, C. -/
def Instr.args (i : Instr) : List Operand := i.opA.toList ++ i.opB.toList ++ i.opC.toList

end Sys2Proof
end

