-- ==== Sys2Proof/WellFormed.lean ====
section
/-! DEFINITION. Which instructions and slots the encoding can hold: no operand of class 0 (R57), one V field, one CONST
field and one A0X flag for a slot (R56), a non-zero mask on the named-output stage (R105), the broadcast swizzle of a
scalar-forced operand C (R90), one operand C, one OUT_R and one OUT_MUX for both units (R61, R105, R113). -/

namespace Sys2Proof

/-- R57, R88: the operand's class is one of R, V, C. -/
def Operand.wf (o : Operand) : Bool :=
  match o.src with
  | .temp _ => true
  | .attr _ => true
  | .const _ _ => true
  | .invalid _ => false

/-- The V field an operand takes from its slot (R85). -/
def Operand.attrField (o : Operand) : List (BitVec 4) :=
  match o.src with
  | .attr n => [n]
  | .temp _ => []
  | .const _ _ => []
  | .invalid _ => []

/-- The remapped CONST field and the A0X flag an operand takes from its slot (R87). -/
def Operand.constField (o : Operand) : List (BitVec 8 × Bool) :=
  match o.src with
  | .const addr rel => [(addr, rel)]
  | .temp _ => []
  | .attr _ => []
  | .invalid _ => []

/-- All members of a list are the same. -/
def allSame {α : Type} [DecidableEq α] : List α → Bool
  | [] => true
  | x :: xs => xs.all (fun y => decide (y = x))

/-- R56: the operands agree on the slot's one V field, and on its one CONST field and A0X flag. -/
def sharedFields (os : List Operand) : Bool :=
  allSame (os.flatMap Operand.attrField) && allSame (os.flatMap Operand.constField)

/-- R105: the named-output stage is this unit's only where its mask is not 0. -/
def NamedOut.wf (n : NamedOut) : Bool := decide (n.mask ≠ 0)

/-- R90: the operand's swizzle is one selector four times. -/
def Operand.isBroadcast (o : Operand) : Bool := decide (o.swz = Swizzle.broadcast o.swz.x)

/-- R90: operand C of a scalar-forcing ILU opcode has a broadcast swizzle. -/
def Instr.forcedWf (i : Instr) : Bool :=
  match i.iluOp, i.opC with
  | some op, some c => !op.scalarForcing || c.isBroadcast
  | some _, none => true
  | none, some _ => true
  | none, none => true

/-- The instruction is one that some slot encodes. -/
def Instr.wf (i : Instr) : Bool :=
  i.args.all Operand.wf && sharedFields i.args && i.named.all NamedOut.wf && i.forcedWf

/-- Two optional values do not disagree. -/
def agree {α : Type} [DecidableEq α] : Option α → Option α → Bool
  | some x, some y => decide (x = y)
  | some _, none => true
  | none, some _ => true
  | none, none => true

/-- The two instructions of a slot, and its final flag, are ones that one slot encodes together. -/
def SlotInstr.wf (d : SlotInstr) : Bool :=
  decide (d.mac.unit = .mac) && decide (d.ilu.unit = .ilu) && d.mac.wf && d.ilu.wf
    && sharedFields (d.mac.args ++ d.ilu.args)
    && agree d.mac.opC d.ilu.opC
    && agree (d.mac.out.map Out.reg) (d.ilu.out.map Out.reg)
    && agree (d.mac.out.map Out.paired) (some (decide (d.ilu ≠ .iluNop)))
    && agree (d.ilu.out.map Out.paired) (some (decide (d.mac ≠ .macNop)))
    && !(d.mac.named.isSome && d.ilu.named.isSome)

end Sys2Proof
end

