-- ==== Sys2Proof/Decode.lean ====
section
/-! DEFINITION. The field table and the field extractor (R51, R52, R78, R79, R80), the operand decoder (R82 to R93), the
instruction decoder (R113 to R120) with its faults in their order (R119), and after them the encoder, written from the
same field table. -/

namespace Sys2Proof

/-! ### The field table (R52) and the extractor (R78) -/

/-- R51: a field descriptor. -/
structure Descriptor where
  name : FieldName
  word : Fin 4
  lo : Nat
  len : Nat
deriving DecidableEq, Repr

/-- R52: word index, start bit and bit length of every field. -/
def descriptor : FieldName → Descriptor
  | .ilu => ⟨.ilu, 1, 25, 3⟩
  | .mac => ⟨.mac, 1, 21, 4⟩
  | .const => ⟨.const, 1, 13, 8⟩
  | .v => ⟨.v, 1, 9, 4⟩
  | .aNeg => ⟨.aNeg, 1, 8, 1⟩
  | .aSwzX => ⟨.aSwzX, 1, 6, 2⟩
  | .aSwzY => ⟨.aSwzY, 1, 4, 2⟩
  | .aSwzZ => ⟨.aSwzZ, 1, 2, 2⟩
  | .aSwzW => ⟨.aSwzW, 1, 0, 2⟩
  | .aR => ⟨.aR, 2, 28, 4⟩
  | .aMux => ⟨.aMux, 2, 26, 2⟩
  | .bNeg => ⟨.bNeg, 2, 25, 1⟩
  | .bSwzX => ⟨.bSwzX, 2, 23, 2⟩
  | .bSwzY => ⟨.bSwzY, 2, 21, 2⟩
  | .bSwzZ => ⟨.bSwzZ, 2, 19, 2⟩
  | .bSwzW => ⟨.bSwzW, 2, 17, 2⟩
  | .bR => ⟨.bR, 2, 13, 4⟩
  | .bMux => ⟨.bMux, 2, 11, 2⟩
  | .cNeg => ⟨.cNeg, 2, 10, 1⟩
  | .cSwzX => ⟨.cSwzX, 2, 8, 2⟩
  | .cSwzY => ⟨.cSwzY, 2, 6, 2⟩
  | .cSwzZ => ⟨.cSwzZ, 2, 4, 2⟩
  | .cSwzW => ⟨.cSwzW, 2, 2, 2⟩
  | .cRHigh => ⟨.cRHigh, 2, 0, 2⟩
  | .cRLow => ⟨.cRLow, 3, 30, 2⟩
  | .cMux => ⟨.cMux, 3, 28, 2⟩
  | .outMacMask => ⟨.outMacMask, 3, 24, 4⟩
  | .outR => ⟨.outR, 3, 20, 4⟩
  | .outIluMask => ⟨.outIluMask, 3, 16, 4⟩
  | .outOMask => ⟨.outOMask, 3, 12, 4⟩
  | .outOrb => ⟨.outOrb, 3, 11, 1⟩
  | .outAddress => ⟨.outAddress, 3, 3, 8⟩
  | .outMux => ⟨.outMux, 3, 2, 1⟩
  | .a0x => ⟨.a0x, 3, 1, 1⟩
  | .final => ⟨.final, 3, 0, 1⟩

/-- R52: the 35 names in the table's order. -/
def fieldNames : List FieldName :=
  [.ilu, .mac, .const, .v, .aNeg, .aSwzX, .aSwzY, .aSwzZ, .aSwzW, .aR, .aMux, .bNeg, .bSwzX, .bSwzY, .bSwzZ, .bSwzW,
    .bR, .bMux, .cNeg, .cSwzX, .cSwzY, .cSwzZ, .cSwzW, .cRHigh, .cRLow, .cMux, .outMacMask, .outR, .outIluMask,
    .outOMask, .outOrb, .outAddress, .outMux, .a0x, .final]

/-- R52: the field table. -/
def fieldTable : List Descriptor := fieldNames.map descriptor

/-- R51, R80: a descriptor's window lies inside its word. -/
def Descriptor.inRange (d : Descriptor) : Bool := decide (d.lo + d.len ≤ 32)

/-- R80, R164: the name of a descriptor of a table whose window exceeds 32 bits. Where several do, the spec does not say
which is named: the first in table order is the model's (DESIGN CHOICE, log entry 19). -/
def fieldRangeViolation (table : List Descriptor) : Option FieldName :=
  (table.find? (fun d => !d.inRange)).map Descriptor.name

/-- R52: the in-word mask `((1<<len)-1)<<lo`. -/
def Descriptor.mask (d : Descriptor) : Word := ((1#32 <<< d.len) - 1) <<< d.lo

/-- R78: `(slot[word_index] >> start_bit) & ((1<<bit_length)-1)`, zero-extended. -/
def extract (t : Slot) (word : Fin 4) (lo len : Nat) : Word := (t.word word >>> lo) &&& ((1#32 <<< len) - 1)

/-- R79: `F(slot, NAME)`. -/
def F (t : Slot) (name : FieldName) : Word :=
  extract t (descriptor name).word (descriptor name).lo (descriptor name).len

/-- R81: a value written into one field's bit window, every other bit of the slot kept. -/
def insertField (t : Slot) (name : FieldName) (val : Word) : Slot :=
  t.setWord (descriptor name).word
    ((t.word (descriptor name).word &&& ~~~(descriptor name).mask) ||| ((val <<< (descriptor name).lo) &&& (descriptor name).mask))

/-- The 35 fields of a slot, each at its width (R52). -/
structure Fields where
  ilu : BitVec 3
  mac : BitVec 4
  const : BitVec 8
  v : BitVec 4
  aNeg : BitVec 1
  aSwzX : BitVec 2
  aSwzY : BitVec 2
  aSwzZ : BitVec 2
  aSwzW : BitVec 2
  aR : BitVec 4
  aMux : BitVec 2
  bNeg : BitVec 1
  bSwzX : BitVec 2
  bSwzY : BitVec 2
  bSwzZ : BitVec 2
  bSwzW : BitVec 2
  bR : BitVec 4
  bMux : BitVec 2
  cNeg : BitVec 1
  cSwzX : BitVec 2
  cSwzY : BitVec 2
  cSwzZ : BitVec 2
  cSwzW : BitVec 2
  cRHigh : BitVec 2
  cRLow : BitVec 2
  cMux : BitVec 2
  outMacMask : BitVec 4
  outR : BitVec 4
  outIluMask : BitVec 4
  outOMask : BitVec 4
  outOrb : BitVec 1
  outAddress : BitVec 8
  outMux : BitVec 1
  a0x : BitVec 1
  final : BitVec 1
deriving DecidableEq, Repr

/-- R79: every rule reads slot contents only through `F`. -/
def readFields (t : Slot) : Fields where
  ilu := (F t .ilu).setWidth 3
  mac := (F t .mac).setWidth 4
  const := (F t .const).setWidth 8
  v := (F t .v).setWidth 4
  aNeg := (F t .aNeg).setWidth 1
  aSwzX := (F t .aSwzX).setWidth 2
  aSwzY := (F t .aSwzY).setWidth 2
  aSwzZ := (F t .aSwzZ).setWidth 2
  aSwzW := (F t .aSwzW).setWidth 2
  aR := (F t .aR).setWidth 4
  aMux := (F t .aMux).setWidth 2
  bNeg := (F t .bNeg).setWidth 1
  bSwzX := (F t .bSwzX).setWidth 2
  bSwzY := (F t .bSwzY).setWidth 2
  bSwzZ := (F t .bSwzZ).setWidth 2
  bSwzW := (F t .bSwzW).setWidth 2
  bR := (F t .bR).setWidth 4
  bMux := (F t .bMux).setWidth 2
  cNeg := (F t .cNeg).setWidth 1
  cSwzX := (F t .cSwzX).setWidth 2
  cSwzY := (F t .cSwzY).setWidth 2
  cSwzZ := (F t .cSwzZ).setWidth 2
  cSwzW := (F t .cSwzW).setWidth 2
  cRHigh := (F t .cRHigh).setWidth 2
  cRLow := (F t .cRLow).setWidth 2
  cMux := (F t .cMux).setWidth 2
  outMacMask := (F t .outMacMask).setWidth 4
  outR := (F t .outR).setWidth 4
  outIluMask := (F t .outIluMask).setWidth 4
  outOMask := (F t .outOMask).setWidth 4
  outOrb := (F t .outOrb).setWidth 1
  outAddress := (F t .outAddress).setWidth 8
  outMux := (F t .outMux).setWidth 1
  a0x := (F t .a0x).setWidth 1
  final := (F t .final).setWidth 1

/-! ### The operand decoder (R82 to R93) -/

/-- R58: the selector a two-bit field names. -/
def Sel.ofBits (b : BitVec 2) : Sel :=
  if b = 0 then .x else if b = 1 then .y else if b = 2 then .z else .w

/-- R86: `bank = raw[7:5]`, `offset = raw[4:0]`, `(bank-3)*32 + offset`, then the centering correction 96. The result
is the identity on 0..255 (90_conflicts.md C1: the formula wins over the range claim). -/
def remapConst (raw : BitVec 8) : BitVec 8 :=
  let bank : Int := (raw >>> 5).toNat
  let offset : Int := (raw &&& 31).toNat
  BitVec.ofInt 8 ((bank - 3) * 32 + offset + 96)

/-- R55: operand C's register index, `(high<<2)|low`. -/
def Fields.cIndex (f : Fields) : BitVec 4 := (f.cRHigh.setWidth 4 <<< 2) ||| f.cRLow.setWidth 4

/-- R55: the register index of an operand. -/
def Fields.regNum (f : Fields) : OperandName → BitVec 4
  | .a => f.aR
  | .b => f.bR
  | .c => f.cIndex

/-- R57: the class field of an operand. -/
def Fields.mux (f : Fields) : OperandName → BitVec 2
  | .a => f.aMux
  | .b => f.bMux
  | .c => f.cMux

/-- R59, R83: the negate flag of an operand. -/
def Fields.neg (f : Fields) : OperandName → Bool
  | .a => decide (f.aNeg = 1)
  | .b => decide (f.bNeg = 1)
  | .c => decide (f.cNeg = 1)

/-- R89: the four lane selectors of an operand as encoded. -/
def Fields.encodedSwizzle (f : Fields) : OperandName → Swizzle
  | .a => ⟨Sel.ofBits f.aSwzX, Sel.ofBits f.aSwzY, Sel.ofBits f.aSwzZ, Sel.ofBits f.aSwzW⟩
  | .b => ⟨Sel.ofBits f.bSwzX, Sel.ofBits f.bSwzY, Sel.ofBits f.bSwzZ, Sel.ofBits f.bSwzW⟩
  | .c => ⟨Sel.ofBits f.cSwzX, Sel.ofBits f.cSwzY, Sel.ofBits f.cSwzZ, Sel.ofBits f.cSwzW⟩

/-- R67: the MAC opcode map. -/
def macOpcodes : List MacOp :=
  [.nop, .mov, .mul, .add, .mad, .dp3, .dph, .dp4, .dst, .min, .max, .slt, .sge, .arl]

/-- R68: the ILU opcode map. -/
def iluOpcodes : List IluOp := [.nop, .mov, .rcp, .rcc, .rsq, .exp, .log, .lit]

/-- R67, R72: the MAC opcode of a field value; 14 and 15 are reserved. -/
def MacOp.ofBits (b : BitVec 4) : Option MacOp := macOpcodes[b.toNat]?

/-- R68: the ILU opcode of a field value; all 8 values are defined. -/
def IluOp.ofBits (b : BitVec 3) : IluOp := iluOpcodes.getD b.toNat .nop

/-- R89, R90: the swizzle of an operand; operand C's is forced to its x selector where the ILU opcode is in the
scalar-forcing set, whichever unit consumes C. -/
def Fields.swizzle (f : Fields) (x : OperandName) : Swizzle :=
  if x = .c ∧ (IluOp.ofBits f.ilu).scalarForcing = true then Swizzle.broadcast (Sel.ofBits f.cSwzX)
  else f.encodedSwizzle x

/-- R57, R84, R85, R87, R88: the register an operand's class field names. -/
def Fields.source (f : Fields) (x : OperandName) : Source :=
  if f.mux x = 1 then .temp (f.regNum x)
  else if f.mux x = 2 then .attr f.v
  else if f.mux x = 3 then .const (remapConst f.const) (decide (f.a0x = 1))
  else .invalid x

/-- R82: operand x of a slot, its class not yet checked. -/
def Fields.operand (f : Fields) (x : OperandName) : Operand := ⟨f.source x, f.neg x, f.swizzle x⟩

/-- R82, R88: `decode_operand`: the operand record, or the fault of a class outside {R, V, C}. -/
def decodeOperand (f : Fields) (x : OperandName) : Except DecodeFault Operand :=
  if (f.operand x).wf then .ok (f.operand x) else .error (.invalidOperandClass x)

/-! ### The instruction decoder (R113 to R120) -/

/-- R69: the MAC opcodes that consume operand A. -/
def MacOp.usesA : MacOp → Bool
  | .nop => false
  | .mov => true
  | .mul => true
  | .add => true
  | .mad => true
  | .dp3 => true
  | .dph => true
  | .dp4 => true
  | .dst => true
  | .min => true
  | .max => true
  | .slt => true
  | .sge => true
  | .arl => true

/-- R69: the MAC opcodes that consume operand B. -/
def MacOp.usesB : MacOp → Bool
  | .nop => false
  | .mov => false
  | .mul => true
  | .add => false
  | .mad => true
  | .dp3 => true
  | .dph => true
  | .dp4 => true
  | .dst => true
  | .min => true
  | .max => true
  | .slt => true
  | .sge => true
  | .arl => false

/-- R63: the OUT_MUX value that selects a unit. -/
def UnitName.sel : UnitName → BitVec 1
  | .mac => 0
  | .ilu => 1

/-- R62, R64, R106, R107: the destination of the named-output stage. -/
def Fields.outDest (f : Fields) : OutDest :=
  if f.outOrb = 0 then .const (remapConst f.outAddress) else .named (f.outAddress.setWidth 4)

/-- R105: the named-output stage of a unit: present where OUT_MUX selects the unit and OUT_O_MASK is not 0. -/
def Fields.namedOut (f : Fields) (u : UnitName) : Option NamedOut :=
  if f.outMux = u.sel ∧ f.outOMask ≠ 0 then some ⟨f.outDest, f.outOMask⟩ else none

/-- R99: what the emitter reads for a unit. -/
def Fields.out (f : Fields) : UnitName → Out
  | .mac => ⟨f.outR, f.outMacMask, decide (f.ilu ≠ 0), f.namedOut .mac⟩
  | .ilu => ⟨f.outR, f.outIluMask, decide (f.mac ≠ 0), f.namedOut .ilu⟩

/-- R69, R114: the MAC instruction of an opcode with the operands it consumes. -/
def macInstr (op : MacOp) (a b c : Operand) (o : Out) : Instr :=
  match op with
  | .nop => .macNop
  | .mov => .macMov a o
  | .mul => .macMul a b o
  | .add => .macAdd a c o
  | .mad => .macMad a b c o
  | .dp3 => .macDp3 a b o
  | .dph => .macDph a b o
  | .dp4 => .macDp4 a b o
  | .dst => .macDst a b o
  | .min => .macMin a b o
  | .max => .macMax a b o
  | .slt => .macSlt a b o
  | .sge => .macSge a b o
  | .arl => .macArl a o.named

/-- R152: the ILU instruction of an opcode with operand C. -/
def iluInstr (op : IluOp) (c : Operand) (o : Out) : Instr :=
  match op with
  | .nop => .iluNop
  | .mov => .iluMov c o
  | .rcp => .iluRcp c o
  | .rcc => .iluRcc c o
  | .rsq => .iluRsq c o
  | .exp => .iluExp c o
  | .log => .iluLog c o
  | .lit => .iluLit c o

/-- The MAC instruction the fields name, its operand classes not yet checked; none for a reserved opcode (R115). -/
def readMac (f : Fields) : Option Instr :=
  (MacOp.ofBits f.mac).map (fun op => macInstr op (f.operand .a) (f.operand .b) (f.operand .c) (f.out .mac))

/-- The ILU instruction the fields name, its operand class not yet checked. -/
def readIlu (f : Fields) : Instr := iluInstr (IluOp.ofBits f.ilu) (f.operand .c) (f.out .ilu)

/-- R114, R119: the class check of an operand, made only where the MAC opcode consumes it. -/
def checkIfUsed (f : Fields) (used : Bool) (x : OperandName) : Except DecodeFault Unit :=
  if used && !(f.operand x).wf then .error (.invalidOperandClass x) else .ok ()

/-- R113 to R120 on the fields of a slot, with the faults in the order of R119: operand C, the reserved MAC opcode,
operand A, operand B. -/
def decodeFields (f : Fields) : Except DecodeFault SlotInstr :=
  match decodeOperand f .c with
  | .error e => .error e
  | .ok c =>
    match MacOp.ofBits f.mac with
    | none => .error (.reservedMacOpcode f.mac)
    | some op =>
      match checkIfUsed f op.usesA .a with
      | .error e => .error e
      | .ok _ =>
        match checkIfUsed f op.usesB .b with
        | .error e => .error e
        | .ok _ =>
          .ok ⟨macInstr op (f.operand .a) (f.operand .b) c (f.out .mac), iluInstr (IluOp.ofBits f.ilu) c (f.out .ilu),
            decide (f.final = 1)⟩

/-- R120: `decodeSlot`, total on every slot: the slot's two instructions and its final flag, or a named fault. -/
def decodeSlot (t : Slot) : Except DecodeFault SlotInstr := decodeFields (readFields t)

/-! ### The encoder -/

/-- R58: the two-bit value of a selector. -/
def Sel.bits : Sel → BitVec 2
  | .x => 0
  | .y => 1
  | .z => 2
  | .w => 3

/-- R67: the field value of a MAC opcode. -/
def MacOp.code : MacOp → BitVec 4
  | .nop => 0
  | .mov => 1
  | .mul => 2
  | .add => 3
  | .mad => 4
  | .dp3 => 5
  | .dph => 6
  | .dp4 => 7
  | .dst => 8
  | .min => 9
  | .max => 10
  | .slt => 11
  | .sge => 12
  | .arl => 13

/-- R68: the field value of an ILU opcode. -/
def IluOp.code : IluOp → BitVec 3
  | .nop => 0
  | .mov => 1
  | .rcp => 2
  | .rcc => 3
  | .rsq => 4
  | .exp => 5
  | .log => 6
  | .lit => 7

/-- A one-bit field from a flag. -/
def bitOf (b : Bool) : BitVec 1 := if b then 1 else 0

/-- R57: the class field of a register. -/
def Source.muxBits : Source → BitVec 2
  | .temp _ => 1
  | .attr _ => 2
  | .const _ _ => 3
  | .invalid _ => 0

/-- R55: the register index field of a register; 0 where the class has none. -/
def Source.regBits : Source → BitVec 4
  | .temp n => n
  | .attr _ => 0
  | .const _ _ => 0
  | .invalid _ => 0

/-- The operand a field group holds where no unit consumes it: R0, whose class decodes (R113). -/
def Operand.unused : Operand := ⟨.temp 0, false, .identity⟩

/-- R61: the OUT_R field of a slot. -/
def SlotInstr.outReg (d : SlotInstr) : BitVec 4 :=
  match d.mac.out with
  | some o => o.reg
  | none => (d.ilu.out.map Out.reg).getD 0

/-- R113: the operand C of a slot. -/
def SlotInstr.operandC (d : SlotInstr) : Operand :=
  match d.mac.opC with
  | some c => c
  | none => d.ilu.opC.getD .unused

/-- All the operands a slot's instructions consume. -/
def SlotInstr.args (d : SlotInstr) : List Operand := d.mac.args ++ d.ilu.args

/-- R105: the one named-output stage of a slot. -/
def SlotInstr.named (d : SlotInstr) : Option NamedOut :=
  match d.mac.named with
  | some n => some n
  | none => d.ilu.named

/-- R62: the ORB field of a destination. -/
def OutDest.orbBits : OutDest → BitVec 1
  | .const _ => 0
  | .named _ => 1

/-- R64: the OUT_ADDRESS field of a destination; `remap_const` is the identity (R86). -/
def OutDest.addressBits : OutDest → BitVec 8
  | .const addr => addr
  | .named j => j.setWidth 8

/-- The 35 field values that hold a slot's two instructions and its final flag. -/
def fieldsOf (d : SlotInstr) : Fields :=
  let a := d.mac.opA.getD .unused
  let b := d.mac.opB.getD .unused
  let c := d.operandC
  let consts := d.args.flatMap Operand.constField
  { ilu := (d.ilu.iluOp.map IluOp.code).getD 0
    mac := (d.mac.macOp.map MacOp.code).getD 0
    const := (consts.head?.map Prod.fst).getD 0
    v := (d.args.flatMap Operand.attrField).head?.getD 0
    aNeg := bitOf a.neg
    aSwzX := a.swz.x.bits
    aSwzY := a.swz.y.bits
    aSwzZ := a.swz.z.bits
    aSwzW := a.swz.w.bits
    aR := a.src.regBits
    aMux := a.src.muxBits
    bNeg := bitOf b.neg
    bSwzX := b.swz.x.bits
    bSwzY := b.swz.y.bits
    bSwzZ := b.swz.z.bits
    bSwzW := b.swz.w.bits
    bR := b.src.regBits
    bMux := b.src.muxBits
    cNeg := bitOf c.neg
    cSwzX := c.swz.x.bits
    cSwzY := c.swz.y.bits
    cSwzZ := c.swz.z.bits
    cSwzW := c.swz.w.bits
    cRHigh := c.src.regBits.extractLsb' 2 2
    cRLow := c.src.regBits.extractLsb' 0 2
    cMux := c.src.muxBits
    outMacMask := (d.mac.out.map Out.mask).getD 0
    outR := d.outReg
    outIluMask := (d.ilu.out.map Out.mask).getD 0
    outOMask := (d.named.map NamedOut.mask).getD 0
    outOrb := (d.named.map (fun n => n.dest.orbBits)).getD 0
    outAddress := (d.named.map (fun n => n.dest.addressBits)).getD 0
    outMux := bitOf d.ilu.named.isSome
    a0x := bitOf ((consts.head?.map Prod.snd).getD false)
    final := bitOf d.final }

/-- R52: the four words that hold 35 field values, high field first in each word; word 0 and word 1 bits 31:28 hold no
field (R54) and are 0. -/
def Fields.toSlot (f : Fields) : Slot where
  w0 := 0
  w1 := (f.ilu ++ f.mac ++ f.const ++ f.v ++ f.aNeg ++ f.aSwzX ++ f.aSwzY ++ f.aSwzZ ++ f.aSwzW).setWidth 32
  w2 := (f.aR ++ f.aMux ++ f.bNeg ++ f.bSwzX ++ f.bSwzY ++ f.bSwzZ ++ f.bSwzW ++ f.bR ++ f.bMux ++ f.cNeg ++ f.cSwzX
    ++ f.cSwzY ++ f.cSwzZ ++ f.cSwzW ++ f.cRHigh).setWidth 32
  w3 := (f.cRLow ++ f.cMux ++ f.outMacMask ++ f.outR ++ f.outIluMask ++ f.outOMask ++ f.outOrb ++ f.outAddress
    ++ f.outMux ++ f.a0x ++ f.final).setWidth 32

/-- The words of a well-formed slot. -/
def encodeSlot (d : SlotInstr) : Slot := (fieldsOf d).toSlot

/-- R101, R102: an instruction with the plainest partner its slot can hold: NOP, or, where the instruction is paired,
a MOV with mask 0 that writes nothing. -/
def Instr.alone (i : Instr) : SlotInstr :=
  let o : Out := i.out.getD ⟨0, 0, false, none⟩
  let still : Out := ⟨o.reg, 0, true, none⟩
  match i.unit with
  | .mac => ⟨i, if o.paired then .iluMov (i.opC.getD .unused) still else .iluNop, false⟩
  | .ilu => ⟨if o.paired then .macMov .unused still else .macNop, i, false⟩

/-- The words of a well-formed instruction. -/
def encode (i : Instr) : Slot := encodeSlot i.alone

/-! ### Instruction words as numbers -/

/-- R10: the slot whose 128-bit value is w: word k is bits 32k+31..32k. -/
def slotOfNat (w : Nat) : Slot :=
  ⟨BitVec.ofNat 32 w, BitVec.ofNat 32 (w >>> 32), BitVec.ofNat 32 (w >>> 64), BitVec.ofNat 32 (w >>> 96)⟩

/-- The unit whose instruction a slot is read as where one instruction is asked for: the MAC unit's, but the ILU's
where the MAC field holds NOP and the ILU field does not. -/
def leadingUnit (f : Fields) : UnitName := if f.mac = 0 ∧ f.ilu ≠ 0 then .ilu else .mac

/-- The instruction of one unit of a slot, as its opcode field names it. -/
def readInstr (f : Fields) : UnitName → Option Instr
  | .mac => readMac f
  | .ilu => some (readIlu f)

/-- The instruction the decoder reads from a slot given as a number (R10), its operand classes not yet checked
(`decodeSlot` checks them); none where the MAC opcode is reserved. -/
def decodeTableWord (nbits w : Nat) : Option Instr :=
  let f := readFields (slotOfNat (w % 2 ^ nbits))
  readInstr f (leadingUnit f)

end Sys2Proof
end

