-- ==== Sys2Proof/Machine/State.lean ====
section
/-! DEFINITION. The state of the block: the slot stream (R36, R37), the translator's `TransState` (R17), the launch
inputs (R29), the vertex invocation's `ExecState` (R16, R20 to R28), the static configuration and the version tag (R9,
R30), the outputs the host reads (R133), and the model's own sequencing of the run of R134; the faults (R161) and the refusals (R173). -/

namespace Sys2Proof.Machine

/-- R161: every fault of the block, with the information its rule gives it. A translation or execution fault is TAKEN:
the next state records it (R166, R172), and the step after answers it as the call's or the run's result (R177). All of
them are safe: the block itself stops there. -/
inductive Fault where
  /-- R164: a descriptor of the field table has a window beyond 32 bits. Raised by the check of the configuration
  (`checkConfiguration`); never by the table of R52. Safe. -/
  | fieldRangeViolation (name : FieldName)
  /-- R162: the scan reached slot index n = N with no final flag. Raised by the translator's scan. Safe. -/
  | malformedProgram (n : Nat)
  /-- R163: operand x of slot k has class field 0. Raised by the translator's scan; also by the read of an operand that
  no translated slot holds. Safe. -/
  | invalidOperandClass (k : Nat) (x : OperandName)
  /-- R165: the MAC field of slot k holds 14 or 15. Raised by the translator's scan. Safe. -/
  | reservedMacOpcode (k : Nat) (value : BitVec 4)
  /-- R167: a statement of slot k reads or writes R13, R14 or R15. Raised by operand reads and R-statements. Safe. -/
  | undeclaredRegister (k : Nat) (n : BitVec 4)
  /-- R168: a statement of slot k reads or writes a constant at a static address of 192 or more. Raised by operand reads
  and constant-bank writes. Safe. -/
  | constantIndexOutOfRange (k : Nat) (a : BitVec 8)
  /-- R169: a relative read of slot k has an index outside [0,191]. Raised by operand reads. Safe. -/
  | relativeIndexOutOfRange (k : Nat) (i : Int)
  /-- R170: a statement of slot k writes a placeholder index of the named-output table. Raised by named-output writes.
  Safe. -/
  | unmappedOutput (k : Nat) (j : BitVec 4)
  /-- R171: an ARL statement of slot k has a named or constant destination. Raised by ARL. Safe. -/
  | arlNamedOutput (k : Nat)
deriving DecidableEq, Repr, Inhabited

/-- R173: the inputs the model declines to start on, and the calls it declines. None is a fault of the block. -/
inductive Refusal where
  /-- An instruction whose meaning is not written. No arm of `exec` answers it. Safe. -/
  | notModelled (mnemonic : String)
  /-- R37, R173, D27: a sequence of this many words that is no whole number of slots. Raised by loading. Safe. -/
  | partialSlot (words : Nat)
  /-- R39: a byte image of this many bytes that is no whole number of words. Raised by loading from bytes. The model's own
  refusal (DESIGN CHOICE, log entry 22). Safe. -/
  | partialWord (bytes : Nat)
  /-- R9, R173, D29: a sequence of more than `MAX_SLOTS` slots. Raised by loading. Safe. -/
  | programTooLong (slots : Nat)
  /-- R80, R164, R173: a configuration whose field table fails its check. Raised by forming the machine and
  by loading. Safe. -/
  | configurationRefused (fault : Fault)
  /-- R134, R190: a vertex launch before the program has been translated. Raised by launching. Safe. -/
  | notTranslated
  /-- R135: a step of a run that has ended with its outputs; nothing is left to execute until the host launches again.
  Raised by the step. Safe. -/
  | runComplete
deriving DecidableEq, Repr, Inhabited

/-- R17: the translator's scan state. -/
inductive TransMode where
  | scanning
  | done
  | fault
deriving DecidableEq, Repr, Inhabited

/-- R17, R124: the record of one translated slot: its index and its four raw words, which its trace comment shows
(R125), and its two decoded instructions, which its statements are formed from (R118). -/
structure SlotRecord where
  index : Nat
  words : Slot
  code : SlotInstr
deriving DecidableEq, Repr

/-- R17: the translation state. -/
structure TransState where
  mode : TransMode
  /-- R18: the slot cursor, a natural number with no fixed width. -/
  k : Nat
  body : List SlotRecord
  fault : Option Fault
deriving DecidableEq, Repr

/-- R28: the ten further output registers; the eleventh, oPos, is R12 (R21). -/
inductive OutReg where
  | oD0
  | oD1
  | oB0
  | oB1
  | oFog
  | oPts
  | oT0
  | oT1
  | oT2
  | oT3
deriving DecidableEq, Repr, Inhabited

/-- The place of a register in the file of ten. -/
def OutReg.index : OutReg → Fin 10
  | .oD0 => 0
  | .oD1 => 1
  | .oB0 => 2
  | .oB1 => 3
  | .oFog => 4
  | .oPts => 5
  | .oT0 => 6
  | .oT1 => 7
  | .oT2 => 8
  | .oT3 => 9

/-- R29: what the host supplies at the start of every vertex invocation. -/
structure Launch where
  v : Vector Vec4 16
  c : Vector Vec4 192
  clip : Vec2
deriving DecidableEq, Repr

/-- R16: the state of one vertex invocation. -/
structure ExecState where
  /-- R20, R21: R0 to R12; `temps[12]` is also oPos. -/
  temps : Vector Vec4 13
  /-- R24: the address register, a signed 32-bit integer. -/
  a0 : BitVec 32
  /-- R28: the ten further output registers, in `OutReg.index` order. -/
  outs : Vector Vec4 10
  /-- R26: the invocation's own constant array. -/
  consts : Vector Vec4 192
  /-- R25: the input attributes, read only. -/
  attrs : Vector Vec4 16
  /-- R29, D32: the clip-range input, which no rule reads. -/
  clip : Vec2
  /-- R35, R172: the fault mark. -/
  fault : Option Fault
deriving DecidableEq, Repr

/-- R133: the eleven values the host reads at the end of a run. -/
structure Outputs where
  position : Vec4
  frontPrimary : Vec4
  frontSecondary : Vec4
  backPrimary : Vec4
  backSecondary : Vec4
  pointSize : Lane
  fog : Lane
  tex0 : Vec4
  tex1 : Vec4
  tex2 : Vec4
  tex3 : Vec4
deriving DecidableEq, Repr

/-- R9, R30, R33: the modes of the static configuration, fixed when the machine is formed (`configure`); no step and no
call of the host changes them. That R33's static configuration is where R9's two modes belong is DEDUCED, log entry 14. -/
structure Params where
  /-- R111, D17. -/
  partialLane : PartialLaneMode
  /-- R39, D30. -/
  wordOrder : WordOrder
deriving DecidableEq, Repr

/-- R134: where the machine stands in the run: scanning the slots (R124), about to declare a vertex invocation's state
(R122, R187), running the body (R134) and its epilogue (R132), or ended (R135). The model's own field: log entry 6. -/
inductive Stage where
  | translating
  | prologue
  | executing
  | ended
deriving DecidableEq, Repr, Inhabited

/-- The whole state. -/
structure State where
  /-- R36, R37: the slot stream P[0..N-1]. -/
  program : List Slot
  /-- R17: the translator's state. -/
  trans : TransState
  /-- R29: the launch inputs the host has supplied. -/
  launch : Launch
  /-- R16: the vertex invocation's state. -/
  vertex : ExecState
  /-- R9, R33: the static configuration. -/
  params : Params
  /-- R30, R33, D31: the one input of a call that is configuration; accepted, and no rule reads it. The spec gives the tag
  no width: 32 bits, as the input words have, is the model's (DESIGN CHOICE, log entry 8). -/
  versionTag : Word
  /-- R134: the model's sequencing of the run. -/
  stage : Stage
  /-- R134, R136: the index of the slot whose statements run next. -/
  slot : Nat
  /-- R118: the unit of that slot whose statements run next, MAC before ILU. -/
  unit : UnitName
  /-- R133, R135: the wired outputs of a run that has ended with them. -/
  outputs : Option Outputs
  /-- R150, I9: how many int32 draws ARL has made; the model's own counter. -/
  draws : Nat
deriving DecidableEq, Repr

/-- R35: vec(0,0,0,1), the value the prologue gives every register of the program. -/
def resetVec : Vec4 := ⟨Config.fp.zero, Config.fp.zero, Config.fp.zero, Config.fp.one⟩

/-- R35, R186: the translation state at the start of every call. -/
def TransState.initial : TransState := ⟨.scanning, 0, [], none⟩

/-- R35, R187: the execution state at the start of every vertex invocation with launch inputs L. -/
def ExecState.atLaunch (L : Launch) : ExecState where
  temps := Vector.replicate 13 resetVec
  a0 := 0
  outs := Vector.replicate 10 resetVec
  consts := L.c
  attrs := L.v
  clip := L.clip
  fault := none

/-- Launch inputs before the host has supplied any: zero vectors. DESIGN CHOICE, unsafe: log entry 7; the spec gives no
default (R29, R189). -/
def Launch.zero : Launch where
  v := Vector.replicate 16 (Vec4.splat Config.fp.zero)
  c := Vector.replicate 192 (Vec4.splat Config.fp.zero)
  clip := ⟨Config.fp.zero, Config.fp.zero⟩

/-- R9, D17, D30: the modes at their defaults. -/
def Params.default : Params := ⟨.aligned, .littleEndian⟩

/-- R35: the machine right after reset: translation about to start at slot 0 (R188), execution at the prologue's values,
no program loaded. The version tag's 0 is the model's: the spec gives the tag no default (DESIGN CHOICE, log entry 8). -/
def State.reset : State where
  program := []
  trans := .initial
  launch := .zero
  vertex := .atLaunch .zero
  params := .default
  versionTag := 0
  stage := .translating
  slot := 0
  unit := .mac
  outputs := none
  draws := 0

end Sys2Proof.Machine
end

