-- ==== Sys2Proof/Machine/Ops.lean ====
section
/-! DEFINITION. The shared operations: the fault classes (R161), taking a fault (R166, R172, R177), reading and writing
every register file (R20 to R28, R94, R111), the lane mask and the partial-lane modes (R60, R111), and running a unit's
statements in order (R108, R112). -/

namespace Sys2Proof.Machine

/-! ### Faults -/

/-- R161: the numeric code of a fault (D42). -/
def Fault.code : Fault → Nat
  | .fieldRangeViolation _ => 1
  | .malformedProgram _ => 2
  | .invalidOperandClass _ _ => 3
  | .reservedMacOpcode _ _ => 4
  | .undeclaredRegister _ _ => 5
  | .constantIndexOutOfRange _ _ => 6
  | .relativeIndexOutOfRange _ _ => 7
  | .unmappedOutput _ _ => 8
  | .arlNamedOutput _ => 9

/-- R161: the class of a fault. -/
inductive FaultClass where
  | static
  | translation
  | execution
deriving DecidableEq, Repr, Inhabited

/-- R161: the class of a fault. -/
def Fault.faultClass : Fault → FaultClass
  | .fieldRangeViolation _ => .static
  | .malformedProgram _ => .translation
  | .invalidOperandClass _ _ => .translation
  | .reservedMacOpcode _ _ => .translation
  | .undeclaredRegister _ _ => .execution
  | .constantIndexOutOfRange _ _ => .execution
  | .relativeIndexOutOfRange _ _ => .execution
  | .unmappedOutput _ _ => .execution
  | .arlNamedOutput _ => .execution

/-- R161: the slot index a translation or execution fault carries; a static fault has none (R164). -/
def Fault.slotIndex : Fault → Option Nat
  | .fieldRangeViolation _ => none
  | .malformedProgram n => some n
  | .invalidOperandClass k _ => some k
  | .reservedMacOpcode k _ => some k
  | .undeclaredRegister k _ => some k
  | .constantIndexOutOfRange k _ => some k
  | .relativeIndexOutOfRange k _ => some k
  | .unmappedOutput k _ => some k
  | .arlNamedOutput k => some k

/-- R128, R163, R165: a decode fault of slot k. -/
def Fault.ofDecode (k : Nat) : DecodeFault → Fault
  | .invalidOperandClass x => .invalidOperandClass k x
  | .reservedMacOpcode v => .reservedMacOpcode k v

/-- R166, R177: taking a translation fault: the translator goes to FAULT with the fault recorded, the statements of
earlier slots are discarded, and the call ends. No handler runs and nothing is saved. -/
def takeTranslationFault (f : Fault) (s : State) : State :=
  { s with trans := { s.trans with mode := .fault, body := [], fault := some f }, stage := .ended }

/-- R172, R177: taking an execution fault: the fault mark records it and the run ends; the writes of earlier statements
stand. No handler runs, nothing is saved, and nothing returns from it (R178). -/
def takeExecutionFault (f : Fault) (s : State) : State :=
  { s with vertex := { s.vertex with fault := some f }, stage := .ended }

/-! ### Reading registers -/

/-- R22, R94: temporary n; R13 to R15 are not declared. R12 reads oPos's storage (R21). -/
def readTemp (s : State) (n : BitVec 4) : Except Fault Vec4 :=
  if h : n.toNat < 13 then .ok s.vertex.temps[n.toNat] else .error (.undeclaredRegister s.slot n)

/-- R25, R94: input attribute n, always declared. -/
def readAttr (s : State) (n : BitVec 4) : Vec4 := s.vertex.attrs[n.toNat]'(n.isLt)

/-- R94, R168: the constant at a static address. -/
def readConst (s : State) (a : BitVec 8) : Except Fault Vec4 :=
  if h : a.toNat < 192 then .ok s.vertex.consts[a.toNat] else .error (.constantIndexOutOfRange s.slot a)

/-- R95: the index of a relative read, `A0 + addr` on integers. -/
def relIndex (s : State) (a : BitVec 8) : Int := s.vertex.a0.toInt + a.toNat

/-- R94, R95, R169: the constant at a relative address. -/
def readRelConst (s : State) (a : BitVec 8) : Except Fault Vec4 :=
  if h : 0 ≤ relIndex s a ∧ (relIndex s a).toNat < 192 then .ok s.vertex.consts[(relIndex s a).toNat]
  else .error (.relativeIndexOutOfRange s.slot (relIndex s a))

/-! ### Lane masks -/

/-- R60: `enabled(m, i) = m[3-i]`: bit 3 enables lane x, bit 0 lane w. -/
def enabled (m : Mask) (i : Fin 4) : Bool := m.getLsbD (3 - i.val)

/-- 1 for an enabled lane, 0 otherwise. -/
def laneCount (m : Mask) (i : Fin 4) : Fin 4 := if enabled m i then 1 else 0

/-- How many lanes before lane i the mask enables, in x, y, z, w order. -/
def enabledBefore (m : Mask) (i : Fin 4) : Fin 4 :=
  match i with
  | 0 => 0
  | 1 => laneCount m 0
  | 2 => laneCount m 0 + laneCount m 1
  | 3 => laneCount m 0 + laneCount m 1 + laneCount m 2

/-- R111, D17: the result lane that destination lane i takes. -/
def sourceLane (mode : PartialLaneMode) (m : Mask) (i : Fin 4) : Fin 4 :=
  match mode with
  | .aligned => i
  | .packed => enabledBefore m i

/-- R111: `write(dst, m, r)`: enabled lanes take a result lane, the others keep theirs. -/
def mergeLanes (mode : PartialLaneMode) (m : Mask) (old r : Vec4) : Vec4 :=
  Vec4.build (fun i => if enabled m i then r.get (sourceLane mode m i) else old.get i)

/-! ### Writing registers -/

/-- The state with a vertex invocation's registers replaced. -/
def State.setVertex (s : State) (e : ExecState) : State := { s with vertex := e }

/-- R111: the masked write of temporary n. -/
def writeTemp (n : Fin 13) (m : Mask) (r : Vec4) (s : State) : State :=
  s.setVertex { s.vertex with temps := s.vertex.temps.set n.val (mergeLanes s.params.partialLane m s.vertex.temps[n.val] r) }

/-- R28, R111: the masked write of a further output register. -/
def writeOut (o : OutReg) (m : Mask) (r : Vec4) (s : State) : State :=
  s.setVertex
    { s.vertex with outs := s.vertex.outs.set o.index.val (mergeLanes s.params.partialLane m s.vertex.outs[o.index.val] r) }

/-- R26, R111: the masked write of a constant, in this invocation's own array. -/
def writeConst (a : Fin 192) (m : Mask) (r : Vec4) (s : State) : State :=
  s.setVertex
    { s.vertex with consts := s.vertex.consts.set a.val (mergeLanes s.params.partialLane m s.vertex.consts[a.val] r) }

/-- R24, R150: the write of the address register, which is whole (R41). -/
def writeA0 (v : BitVec 32) (s : State) : State := s.setVertex { s.vertex with a0 := v }

/-- A register of the named-output table: oPos, which is R12 (R21), or a further output. -/
inductive NamedReg where
  | oPos
  | further (o : OutReg)
deriving DecidableEq, Repr, Inhabited

/-- R71: the named-output table; none is a placeholder. -/
def namedOutput (j : BitVec 4) : Option NamedReg :=
  [some .oPos, none, none, some (.further .oD0), some (.further .oD1), some (.further .oFog), some (.further .oPts),
    some (.further .oB0), some (.further .oB1), some (.further .oT0), some (.further .oT1), some (.further .oT2),
    some (.further .oT3), none, none, none].getD j.toNat none

/-- R98, R111: the destination of a vector write: a temporary, or the named-output stage's. -/
inductive VecDest where
  | reg (n : BitVec 4)
  | out (d : OutDest)
deriving DecidableEq, Repr, Inhabited

/-- R22, R111: the write of an R-statement. -/
def writeReg (n : BitVec 4) (m : Mask) (r : Vec4) (s : State) : Except Fault State :=
  if h : n.toNat < 13 then .ok (writeTemp ⟨n.toNat, h⟩ m r s) else .error (.undeclaredRegister s.slot n)

/-- R71, R111, R170: the write of a named output; index 0 is oPos and so R12. -/
def writeNamed (j : BitVec 4) (m : Mask) (r : Vec4) (s : State) : Except Fault State :=
  match namedOutput j with
  | some .oPos => .ok (writeTemp 12 m r s)
  | some (.further o) => .ok (writeOut o m r s)
  | none => .error (.unmappedOutput s.slot j)

/-- R111, R168: the constant-bank write. -/
def writeConstBank (a : BitVec 8) (m : Mask) (r : Vec4) (s : State) : Except Fault State :=
  if h : a.toNat < 192 then .ok (writeConst ⟨a.toNat, h⟩ m r s) else .error (.constantIndexOutOfRange s.slot a)

/-- R111: the write of a statement; a destination fault is raised before anything is written (R172). -/
def writeDest (d : VecDest) (m : Mask) (r : Vec4) (s : State) : Except Fault State :=
  match d with
  | .reg n => writeReg n m r s
  | .out (.named j) => writeNamed j m r s
  | .out (.const a) => writeConstBank a m r s

/-! ### Statements -/

/-- The reads and the arithmetic of a statement: the result vector, or the first read's fault. -/
abbrev Calc := State → Except Fault Vec4

/-- R111, R112, R175: one statement: every operand is read and the result formed, then the destination is written. A
fault leaves the state as the statement found it. -/
def runStmt (value : Calc) (d : VecDest) (m : Mask) (s : State) : Except (Fault × State) State :=
  match value s with
  | .error f => .error (f, s)
  | .ok r =>
    match writeDest d m r s with
    | .error f => .error (f, s)
    | .ok t => .ok t

/-- R46, R97, R108: a unit's statements in order, each reading its operands anew; the first fault stops them with the
writes of those before it done. -/
def runStmts (value : Calc) : List (VecDest × Mask) → State → Except (Fault × State) State
  | [], s => .ok s
  | w :: ws, s =>
    match runStmt value w.1 w.2 s with
    | .error e => .error e
    | .ok t => runStmts value ws t

/-- R172: the outcome of a unit's statements: the state they left, or the execution fault taken in it. -/
def finish (r : Except (Fault × State) State) : Host.Outcome State Fault Refusal :=
  match r with
  | .ok t => .next t
  | .error e => .next (takeExecutionFault e.1 e.2)

end Sys2Proof.Machine
end

