-- ==== Sys2Proof/Machine/Operands.lean ====
section
/-! DEFINITION. The value an operand denotes when its statement runs (R94 to R97): the register read of its class, then
the swizzle, then the negation; and the reads of one, two and three operands in list order (R175). -/

namespace Sys2Proof.Machine

/-- R94: `srcval(op, st)`. An operand of class 0 is in no translated slot (R73, R88); its read faults as its decoding does. -/
def readSource (s : State) (src : Source) : Except Fault Vec4 :=
  match src with
  | .temp n => readTemp s n
  | .attr n => .ok (readAttr s n)
  | .const addr false => readConst s addr
  | .const addr true => readRelConst s addr
  | .invalid x => .error (.invalidOperandClass s.slot x)

/-- R96: the swizzle selects a source lane for each lane. -/
def applySwizzle (z : Swizzle) (v : Vec4) : Vec4 := ⟨v.get z.x.lane, v.get z.y.lane, v.get z.z.lane, v.get z.w.lane⟩

/-- R96: the negation of every lane. -/
def negVec (fp : FP) (v : Vec4) : Vec4 := ⟨fp.neg v.x, fp.neg v.y, fp.neg v.z, fp.neg v.w⟩

/-- R83, R96: swizzle first, then the sign. -/
def shapeOperand (fp : FP) (o : Operand) (v : Vec4) : Vec4 :=
  if o.neg then negVec fp (applySwizzle o.swz v) else applySwizzle o.swz v

/-- R96: `value(op, st)`. -/
def evalOperand (s : State) (o : Operand) : Except Fault Vec4 :=
  match readSource s o.src with
  | .error f => .error f
  | .ok v => .ok (shapeOperand Config.fp o v)

/-- A statement of one operand. -/
def calc1 (f : Vec4 → Vec4) (a : Operand) : Calc := fun s =>
  match evalOperand s a with
  | .error e => .error e
  | .ok va => .ok (f va)

/-- R175: a statement of two operands, read in list order. -/
def calc2 (f : Vec4 → Vec4 → Vec4) (a b : Operand) : Calc := fun s =>
  match evalOperand s a with
  | .error e => .error e
  | .ok va =>
    match evalOperand s b with
    | .error e => .error e
    | .ok vb => .ok (f va vb)

/-- R175: a statement of three operands, read in list order. -/
def calc3 (f : Vec4 → Vec4 → Vec4 → Vec4) (a b c : Operand) : Calc := fun s =>
  match evalOperand s a with
  | .error e => .error e
  | .ok va =>
    match evalOperand s b with
    | .error e => .error e
    | .ok vb =>
      match evalOperand s c with
      | .error e => .error e
      | .ok vc => .ok (f va vb vc)

end Sys2Proof.Machine
end

