-- ==== Sys2Proof/Machine/Flags.lean ====
section
/-! DEFINITION. The block has no status flags, condition codes or predicates (R32). The comparisons SLT and SGE give lane
values 1.0 or 0.0 (R148, R149): this file holds how a comparison becomes a lane. -/

namespace Sys2Proof.Machine

/-- R32, R148, R149: the lane a comparison writes: the exact 1 or the exact 0 of `FP`. -/
def truthLane (fp : FP) (b : Bool) : Lane := if b then fp.one else fp.zero

/-- A per-lane operation on two vectors. -/
def zipLanes (f : Lane → Lane → Lane) (a b : Vec4) : Vec4 := ⟨f a.x b.x, f a.y b.y, f a.z b.z, f a.w b.w⟩

/-- A per-lane comparison of two vectors. -/
def compareLanes (fp : FP) (p : Lane → Lane → Bool) (a b : Vec4) : Vec4 := zipLanes (fun x y => truthLane fp (p x y)) a b

end Sys2Proof.Machine
end

