-- ==== Sys2Proof/Machine/Emit.lean ====
section
/-! DEFINITION. The opcode emitter (R98 to R108): which statements a unit's instruction becomes under the co-issue rules,
the typed statement (R98), and its canonical text (R76, R91, R92, R109, R125). -/

namespace Sys2Proof.Machine

/-- R101: the MAC mask after the co-issue rule: 0 where the ILU is not NOP and OUT_R is 1. -/
def macMask (o : Out) : Mask := if o.paired ∧ o.reg = 1 then 0 else o.mask

/-- R102: the ILU destination after the co-issue rule: R1 where the MAC is not NOP. -/
def iluReg (o : Out) : BitVec 4 := if o.paired then 1 else o.reg

/-- R103: the R-statement, emitted where the mask is not 0. -/
def regWrite (n : BitVec 4) (m : Mask) : List (VecDest × Mask) := if m = 0 then [] else [(.reg n, m)]

/-- R105: the named-output statement, where the stage is this unit's. -/
def outWrite (n : Option NamedOut) : List (VecDest × Mask) :=
  match n with
  | some w => [(.out w.dest, w.mask)]
  | none => []

/-- R108: the writes of a non-ARL MAC instruction: the R-statement, then the named-output statement. -/
def macWrites (o : Out) : List (VecDest × Mask) := regWrite o.reg (macMask o) ++ outWrite o.named

/-- R108: the writes of an ILU instruction. -/
def iluWrites (o : Out) : List (VecDest × Mask) := regWrite (iluReg o) o.mask ++ outWrite o.named

/-- R98: the destination of a typed statement. -/
inductive Dest where
  | vec (d : VecDest)
  | addrA0
deriving DecidableEq, Repr, Inhabited

/-- R98: a typed statement. -/
structure Stmt where
  unit : UnitName
  op : String
  dest : Dest
  mask : Mask
  args : List Operand
deriving DecidableEq, Repr

/-- R67: the mnemonic of a MAC opcode. -/
def macName : MacOp → String
  | .nop => "NOP"
  | .mov => "MOV"
  | .mul => "MUL"
  | .add => "ADD"
  | .mad => "MAD"
  | .dp3 => "DP3"
  | .dph => "DPH"
  | .dp4 => "DP4"
  | .dst => "DST"
  | .min => "MIN"
  | .max => "MAX"
  | .slt => "SLT"
  | .sge => "SGE"
  | .arl => "ARL"

/-- R68: the mnemonic of an ILU opcode. -/
def iluName : IluOp → String
  | .nop => "NOP"
  | .mov => "MOV"
  | .rcp => "RCP"
  | .rcc => "RCC"
  | .rsq => "RSQ"
  | .exp => "EXP"
  | .log => "LOG"
  | .lit => "LIT"

/-- The name a statement of the instruction carries (R98). -/
def opName (i : Instr) : String :=
  match i.macOp with
  | some op => macName op
  | none => (i.iluOp.map iluName).getD "NOP"

/-- R103, R105, R108: the vector writes of an instruction's statements, in order; a NOP has none (R116, R117), ARL only
those of the named-output stage (R104, R110). -/
def vecWrites (i : Instr) : List (VecDest × Mask) :=
  match i.unit, i.out with
  | .mac, some o => macWrites o
  | .ilu, some o => iluWrites o
  | .mac, none => outWrite i.named
  | .ilu, none => outWrite i.named

/-- R104, R108: the destinations and masks of an instruction's statements, in order; the write of A0 comes first, with
the meaningless mask 0xF. -/
def stmtDests (i : Instr) : List (Dest × Mask) :=
  (if i.macOp = some .arl then [(.addrA0, 0xF)] else []) ++ (vecWrites i).map (fun w => (.vec w.1, w.2))

/-- R98, R108: the typed statements of an instruction. -/
def stmtsOf (i : Instr) : List Stmt := (stmtDests i).map (fun w => ⟨i.unit, opName i, w.1, w.2, i.args⟩)

/-- R118: the statements of a slot: the MAC unit's, then the ILU unit's. -/
def slotStmts (d : SlotInstr) : List Stmt := stmtsOf d.mac ++ stmtsOf d.ilu

/-! ### Canonical text -/

/-- R91: the letter of a selector. -/
def selLetter : Sel → String
  | .x => "x"
  | .y => "y"
  | .z => "z"
  | .w => "w"

/-- R91: no suffix for the identity, one letter where all four are equal, else four letters. -/
def swizzleText (z : Swizzle) : String :=
  if z = Swizzle.identity then ""
  else if z = Swizzle.broadcast z.x then "." ++ selLetter z.x
  else "." ++ selLetter z.x ++ selLetter z.y ++ selLetter z.z ++ selLetter z.w

/-- R84, R85, R87: the register text of an operand. A class-0 operand has none: its slot is never translated. -/
def sourceText : Source → String
  | .temp n => "R" ++ Nat.repr n.toNat
  | .attr n => "v" ++ Nat.repr n.toNat
  | .const addr false => "c[" ++ Nat.repr addr.toNat ++ "]"
  | .const addr true => "c[A0+" ++ Nat.repr addr.toNat ++ "]"
  | .invalid _ => ""

/-- R92: sign, register text, swizzle. -/
def operandText (o : Operand) : String := (if o.neg then "-" else "") ++ sourceText o.src ++ swizzleText o.swz

/-- R60: the mask letters in x, y, z, w order. -/
def maskLetters (m : Mask) : String :=
  (if enabled m 0 then "x" else "") ++ (if enabled m 1 then "y" else "") ++ (if enabled m 2 then "z" else "")
    ++ (if enabled m 3 then "w" else "")

/-- R28, G2: the name of a further output register. -/
def outRegName : OutReg → String
  | .oD0 => "oD0"
  | .oD1 => "oD1"
  | .oB0 => "oB0"
  | .oB1 => "oB1"
  | .oFog => "oFog"
  | .oPts => "oPts"
  | .oT0 => "oT0"
  | .oT1 => "oT1"
  | .oT2 => "oT2"
  | .oT3 => "oT3"

/-- R71, D39: the name of a named output; a placeholder renders as three question marks. -/
def namedText (j : BitVec 4) : String :=
  match namedOutput j with
  | some .oPos => "oPos"
  | some (.further o) => outRegName o
  | none => "???"

/-- R109: the destination text. -/
def destText (d : Dest) (m : Mask) : String :=
  match d with
  | .vec (.reg n) => "R" ++ Nat.repr n.toNat ++ "." ++ maskLetters m
  | .addrA0 => "A0"
  | .vec (.out (.named j)) => namedText j ++ "." ++ maskLetters m
  | .vec (.out (.const a)) => "c[" ++ Nat.repr a.toNat ++ "]." ++ maskLetters m

/-- R109: the operand list of a statement's text. -/
def argsText (os : List Operand) : String := String.join (os.map (fun o => ", " ++ operandText o))

/-- R109: a statement's text. -/
def stmtText (t : Stmt) : String := "  " ++ t.op ++ "(" ++ destText t.dest t.mask ++ argsText t.args ++ ");\n"

/-- One upper-case hexadecimal digit. -/
def hexDigit (n : Nat) : String :=
  ["0", "1", "2", "3", "4", "5", "6", "7", "8", "9", "A", "B", "C", "D", "E", "F"].getD (n % 16) ""

/-- R125: `0x` and eight upper-case hexadecimal digits. -/
def hex8 (w : Word) : String :=
  "0x" ++ String.join ([28, 24, 20, 16, 12, 8, 4, 0].map (fun k => hexDigit (w.toNat >>> k)))

/-- R125: the four raw words of a slot. -/
def wordsText (t : Slot) : String :=
  hex8 t.w0 ++ " " ++ hex8 t.w1 ++ " " ++ hex8 t.w2 ++ " " ++ hex8 t.w3

/-- R125: the traceability comment of a slot, with all four raw words. -/
def traceComment (k : Nat) (t : Slot) : String := "  /* Slot " ++ Nat.repr k ++ ": " ++ wordsText t ++ " */\n"

/-- R125: the text of one slot: comment, statements, blank line. -/
def slotText (r : SlotRecord) : String :=
  traceComment r.index r.words ++ String.join ((slotStmts r.code).map stmtText) ++ "\n"

/-- R125: the slot texts in slot order. -/
def bodyText (body : List SlotRecord) : String := String.join (body.map slotText)

/-- R129, R130: the text a translation returns: one blob when DONE, none otherwise. -/
def outputText (t : TransState) : Option String :=
  match t.mode with
  | .done => some (Config.prologueText ++ Config.entryOpenText ++ bodyText t.body ++ Config.epilogueText)
  | .scanning => none
  | .fault => none

end Sys2Proof.Machine
end

