-- ==== Sys2Proof/Machine/IluOps.lean ====
section
/-! DEFINITION. The ILU unit's 8 instructions: NOP (R117) and the opcode semantics of Table 1 (R153 to R159), each over
operand C, whose swizzle the decoder has forced where R90 says so. A scalar result is written to all four lanes (R152). -/

namespace Sys2Proof.Machine

/-- R153: MOV s→s. -/
def iluMovResult (a : Vec4) : Vec4 := a

/-- R154: RCP a→1/a.x, broadcast. -/
def rcpResult (fp : FP) (a : Vec4) : Vec4 := Vec4.splat (fp.div fp.one a.x)

/-- R155, D41: the reciprocal clamped to the positive range where it is strictly positive, else to the negative one. -/
def rccLane (fp : FP) (r : Lane) : Lane :=
  if fp.gt r fp.zero then fp.clamp r fp.rccMin fp.rccMax else fp.clamp r (fp.neg fp.rccMax) (fp.neg fp.rccMin)

/-- R155: RCC, broadcast. -/
def rccResult (fp : FP) (a : Vec4) : Vec4 := Vec4.splat (rccLane fp (fp.div fp.one a.x))

/-- R156: RSQ a→1/sqrt(a.x), broadcast; no absolute value is taken. -/
def rsqResult (fp : FP) (a : Vec4) : Vec4 := Vec4.splat (fp.div fp.one (fp.sqrt a.x))

/-- R157: EXP a→2^a.x, broadcast. -/
def expResult (fp : FP) (a : Vec4) : Vec4 := Vec4.splat (fp.exp2 a.x)

/-- R158: LOG a→log2(a.x), broadcast; no absolute value is taken. -/
def logResult (fp : FP) (a : Vec4) : Vec4 := Vec4.splat (fp.log2 a.x)

/-- R159: LIT a→(1, max(a.x,0), (a.x>0∧a.y>0) ? pow(a.y,a.w) : 0, 1). -/
def litResult (fp : FP) (a : Vec4) : Vec4 :=
  ⟨fp.one, fp.max a.x fp.zero, if fp.gt a.x fp.zero ∧ fp.gt a.y fp.zero then fp.pow a.y a.w else fp.zero, fp.one⟩

/-- R117: ILU NOP emits no statement. -/
def execIluNop (s : State) : Host.Outcome State Fault Refusal := .next s

/-- R152, R153: ILU MOV. -/
def execIluMov (c : Operand) (o : Out) (s : State) : Host.Outcome State Fault Refusal :=
  finish (runStmts (calc1 iluMovResult c) (iluWrites o) s)

/-- R152, R154: RCP. -/
def execIluRcp (c : Operand) (o : Out) (s : State) : Host.Outcome State Fault Refusal :=
  finish (runStmts (calc1 (rcpResult Config.fp) c) (iluWrites o) s)

/-- R152, R155: RCC. -/
def execIluRcc (c : Operand) (o : Out) (s : State) : Host.Outcome State Fault Refusal :=
  finish (runStmts (calc1 (rccResult Config.fp) c) (iluWrites o) s)

/-- R152, R156: RSQ. -/
def execIluRsq (c : Operand) (o : Out) (s : State) : Host.Outcome State Fault Refusal :=
  finish (runStmts (calc1 (rsqResult Config.fp) c) (iluWrites o) s)

/-- R152, R157: EXP. -/
def execIluExp (c : Operand) (o : Out) (s : State) : Host.Outcome State Fault Refusal :=
  finish (runStmts (calc1 (expResult Config.fp) c) (iluWrites o) s)

/-- R152, R158: LOG. -/
def execIluLog (c : Operand) (o : Out) (s : State) : Host.Outcome State Fault Refusal :=
  finish (runStmts (calc1 (logResult Config.fp) c) (iluWrites o) s)

/-- R152, R159: LIT. -/
def execIluLit (c : Operand) (o : Out) (s : State) : Host.Outcome State Fault Refusal :=
  finish (runStmts (calc1 (litResult Config.fp) c) (iluWrites o) s)

end Sys2Proof.Machine
end

