-- ==== Sys2Proof/Machine/MacOps.lean ====
section
/-! DEFINITION. The MAC unit's 14 instructions: NOP (R116), the opcode semantics of Table 1 (R138 to R149), ARL (R150). Each
`<op>Result` is the `OPSEM(MAC, op)` of its rule over an `FP` record; each `execMac<Op>` runs the instruction's statements
with it. No instruction has a flag (R32) and no lane value ever faults (R160). -/

namespace Sys2Proof.Machine

/-- R138: MOV s→s. -/
def movResult (a : Vec4) : Vec4 := a

/-- R139: MUL a,b→a·b, per lane. -/
def mulResult (fp : FP) (a b : Vec4) : Vec4 := zipLanes fp.mul a b

/-- R140: ADD a,b→a+b, per lane; b is the second list entry, operand C. -/
def addResult (fp : FP) (a b : Vec4) : Vec4 := zipLanes fp.add a b

/-- R141: MAD a,b,c→a·b+c, per lane. -/
def madResult (fp : FP) (a b c : Vec4) : Vec4 :=
  ⟨fp.mad a.x b.x c.x, fp.mad a.y b.y c.y, fp.mad a.z b.z c.z, fp.mad a.w b.w c.w⟩

/-- R142: DP3 a,b→dot(a.xyz,b.xyz), broadcast. -/
def dp3Result (fp : FP) (a b : Vec4) : Vec4 := Vec4.splat (fp.dot3 a.x a.y a.z b.x b.y b.z)

/-- R143: DPH a,b→dot((a.xyz,1),b), broadcast. -/
def dphResult (fp : FP) (a b : Vec4) : Vec4 := Vec4.splat (fp.dot4 ⟨a.x, a.y, a.z, fp.one⟩ b)

/-- R144: DP4 a,b→dot(a,b), broadcast. -/
def dp4Result (fp : FP) (a b : Vec4) : Vec4 := Vec4.splat (fp.dot4 a b)

/-- R145: DST a,b→(1, a.y·b.y, a.z, b.w). -/
def dstResult (fp : FP) (a b : Vec4) : Vec4 := ⟨fp.one, fp.mul a.y b.y, a.z, b.w⟩

/-- R146: the per-lane minimum. -/
def minResult (fp : FP) (a b : Vec4) : Vec4 := zipLanes fp.min a b

/-- R147: the per-lane maximum. -/
def maxResult (fp : FP) (a b : Vec4) : Vec4 := zipLanes fp.max a b

/-- R148: 1.0 where a lane of a is less than b's, else 0.0. -/
def sltResult (fp : FP) (a b : Vec4) : Vec4 := compareLanes fp fp.lt a b

/-- R149: 1.0 where a lane of a is greater than or equal to b's, else 0.0. -/
def sgeResult (fp : FP) (a b : Vec4) : Vec4 := compareLanes fp fp.ge a b

/-- R150, D20: the int32 ARL writes: the truncation toward zero where there is one and it is an int32, else the draw. -/
def arlResult (fp : FP) (draw : BitVec 32) (x : Lane) : BitVec 32 :=
  match fp.toIntTrunc x with
  | some n => if -2147483648 ≤ n ∧ n ≤ 2147483647 then BitVec.ofInt 32 n else draw
  | none => draw

/-- R150: ARL's own statement, after its operand read: A0 written whole, and the draw counter moved on. -/
def loadA0 (x : Lane) (s : State) : State :=
  { writeA0 (arlResult Config.fp (Config.arlDraw s.draws) x) s with draws := s.draws + 1 }

/-- R110, R171, R175: ARL's statement for the named-output stage: its operand is read, then it faults. -/
def runArlNamed (a : Operand) (t : State) : Except (Fault × State) State :=
  match evalOperand t a with
  | .error f => .error (f, t)
  | .ok _ => .error (.arlNamedOutput t.slot, t)

/-- R104, R110, R150: the statements of ARL, whatever the mask. -/
def runArl (a : Operand) (named : Option NamedOut) (s : State) : Except (Fault × State) State :=
  match evalOperand s a with
  | .error f => .error (f, s)
  | .ok v =>
    match named with
    | none => .ok (loadA0 v.x s)
    | some _ => runArlNamed a (loadA0 v.x s)

/-- R116: MAC NOP emits no statement. -/
def execMacNop (s : State) : Host.Outcome State Fault Refusal := .next s

/-- R137, R138: MAC MOV. -/
def execMacMov (a : Operand) (o : Out) (s : State) : Host.Outcome State Fault Refusal :=
  finish (runStmts (calc1 movResult a) (macWrites o) s)

/-- R137, R139: MUL. -/
def execMacMul (a b : Operand) (o : Out) (s : State) : Host.Outcome State Fault Refusal :=
  finish (runStmts (calc2 (mulResult Config.fp) a b) (macWrites o) s)

/-- R137, R140: ADD. -/
def execMacAdd (a c : Operand) (o : Out) (s : State) : Host.Outcome State Fault Refusal :=
  finish (runStmts (calc2 (addResult Config.fp) a c) (macWrites o) s)

/-- R137, R141: MAD. -/
def execMacMad (a b c : Operand) (o : Out) (s : State) : Host.Outcome State Fault Refusal :=
  finish (runStmts (calc3 (madResult Config.fp) a b c) (macWrites o) s)

/-- R137, R142: DP3. -/
def execMacDp3 (a b : Operand) (o : Out) (s : State) : Host.Outcome State Fault Refusal :=
  finish (runStmts (calc2 (dp3Result Config.fp) a b) (macWrites o) s)

/-- R137, R143: DPH. -/
def execMacDph (a b : Operand) (o : Out) (s : State) : Host.Outcome State Fault Refusal :=
  finish (runStmts (calc2 (dphResult Config.fp) a b) (macWrites o) s)

/-- R137, R144: DP4. -/
def execMacDp4 (a b : Operand) (o : Out) (s : State) : Host.Outcome State Fault Refusal :=
  finish (runStmts (calc2 (dp4Result Config.fp) a b) (macWrites o) s)

/-- R137, R145: DST. -/
def execMacDst (a b : Operand) (o : Out) (s : State) : Host.Outcome State Fault Refusal :=
  finish (runStmts (calc2 (dstResult Config.fp) a b) (macWrites o) s)

/-- R137, R146: MIN. -/
def execMacMin (a b : Operand) (o : Out) (s : State) : Host.Outcome State Fault Refusal :=
  finish (runStmts (calc2 (minResult Config.fp) a b) (macWrites o) s)

/-- R137, R147: MAX. -/
def execMacMax (a b : Operand) (o : Out) (s : State) : Host.Outcome State Fault Refusal :=
  finish (runStmts (calc2 (maxResult Config.fp) a b) (macWrites o) s)

/-- R137, R148: SLT. -/
def execMacSlt (a b : Operand) (o : Out) (s : State) : Host.Outcome State Fault Refusal :=
  finish (runStmts (calc2 (sltResult Config.fp) a b) (macWrites o) s)

/-- R137, R149: SGE. -/
def execMacSge (a b : Operand) (o : Out) (s : State) : Host.Outcome State Fault Refusal :=
  finish (runStmts (calc2 (sgeResult Config.fp) a b) (macWrites o) s)

/-- R104, R150: ARL. -/
def execMacArl (a : Operand) (named : Option NamedOut) (s : State) : Host.Outcome State Fault Refusal :=
  finish (runArl a named s)

end Sys2Proof.Machine
end

