-- ==== Sys2Proof/Machine/Dispatch.lean ====
section
/-! DEFINITION. The dispatch of an instruction to its meaning: one arm per constructor of `Instr`. -/

namespace Sys2Proof.Machine

/-- The meaning of one instruction: the statements of one unit of one slot (R111, R137, R152). -/
def exec (i : Instr) (s : State) : Host.Outcome State Fault Refusal :=
  match i with
  | .macNop => Sys2Proof.Machine.execMacNop s
  | .macMov a o => Sys2Proof.Machine.execMacMov a o s
  | .macMul a b o => Sys2Proof.Machine.execMacMul a b o s
  | .macAdd a c o => Sys2Proof.Machine.execMacAdd a c o s
  | .macMad a b c o => Sys2Proof.Machine.execMacMad a b c o s
  | .macDp3 a b o => Sys2Proof.Machine.execMacDp3 a b o s
  | .macDph a b o => Sys2Proof.Machine.execMacDph a b o s
  | .macDp4 a b o => Sys2Proof.Machine.execMacDp4 a b o s
  | .macDst a b o => Sys2Proof.Machine.execMacDst a b o s
  | .macMin a b o => Sys2Proof.Machine.execMacMin a b o s
  | .macMax a b o => Sys2Proof.Machine.execMacMax a b o s
  | .macSlt a b o => Sys2Proof.Machine.execMacSlt a b o s
  | .macSge a b o => Sys2Proof.Machine.execMacSge a b o s
  | .macArl a named => Sys2Proof.Machine.execMacArl a named s
  | .iluNop => Sys2Proof.Machine.execIluNop s
  | .iluMov c o => Sys2Proof.Machine.execIluMov c o s
  | .iluRcp c o => Sys2Proof.Machine.execIluRcp c o s
  | .iluRcc c o => Sys2Proof.Machine.execIluRcc c o s
  | .iluRsq c o => Sys2Proof.Machine.execIluRsq c o s
  | .iluExp c o => Sys2Proof.Machine.execIluExp c o s
  | .iluLog c o => Sys2Proof.Machine.execIluLog c o s
  | .iluLit c o => Sys2Proof.Machine.execIluLit c o s

end Sys2Proof.Machine
end

