-- ==== Sys2Proof/Machine/Run.lean ====
section
/-! DEFINITION. The run of a translated program around its statements (R134): the prologue (R122, R187), fetching the next
instruction of the body and moving past it (R118, R136), the epilogue (R132) and the output wiring (R133). -/

namespace Sys2Proof.Machine

/-- R122, R187: the prologue declares the vertex invocation's state from the launch inputs; the body starts at slot 0
(R188). -/
def prologueStep (s : State) : State :=
  { s with vertex := .atLaunch s.launch, stage := .executing, slot := 0, unit := .mac, outputs := none }

/-- R118, R134: the instruction that runs next; none past the body's last slot. -/
def fetch (s : State) : Option Instr := s.trans.body[s.slot]?.map (fun r => r.code.instr s.unit)

/-- R118, R136: the place of the next instruction: the ILU's of the same slot, then the MAC's of the next slot. A run
that a fault has ended does not move on (R172). -/
def advance (s : State) : State :=
  match s.stage, s.unit with
  | .executing, .mac => { s with unit := .ilu }
  | .executing, .ilu => { s with slot := s.slot + 1, unit := .mac }
  | .translating, _ => s
  | .prologue, _ => s
  | .ended, _ => s

/-- R132, D23: one axis of the position transform: subtract the offset, divide by the scale unless it is zero, multiply
by W. -/
def axisPos (fp : FP) (p offset scale w : Lane) : Lane :=
  let t := fp.add p (fp.neg offset)
  fp.mul (if fp.eqzero scale then t else fp.div t scale) w

/-- R132: the position transform on the axes x, y, z; w is unchanged. -/
def epiloguePos (fp : FP) (scale offset p : Vec4) : Vec4 :=
  ⟨axisPos fp p.x offset.x scale.x p.w, axisPos fp p.y offset.y scale.y p.w, axisPos fp p.z offset.z scale.z p.w, p.w⟩

/-- R27: the viewport scale, `c[58]`. -/
def viewportScale (e : ExecState) : Vec4 := e.consts[58]

/-- R27: the viewport offset, `c[59]`. -/
def viewportOffset (e : ExecState) : Vec4 := e.consts[59]

/-- R21: the position register, R12. -/
def position (e : ExecState) : Vec4 := e.temps[12]

/-- R28: a further output register. -/
def outValue (e : ExecState) (o : OutReg) : Vec4 := e.outs[o.index.val]

/-- R132: `epilogue_pos(st)`. -/
def transformPosition (e : ExecState) : ExecState :=
  { e with temps := e.temps.set 12 (epiloguePos Config.fp (viewportScale e) (viewportOffset e) (position e)) }

/-- R133, D24: the wiring of the output registers to the backend's slots; point size and fog are lane x. -/
def wiring (e : ExecState) : Outputs where
  position := position e
  frontPrimary := outValue e .oD0
  frontSecondary := outValue e .oD1
  backPrimary := outValue e .oB0
  backSecondary := outValue e .oB1
  pointSize := (outValue e .oPts).x
  fog := (outValue e .oFog).x
  tex0 := outValue e .oT0
  tex1 := outValue e .oT1
  tex2 := outValue e .oT2
  tex3 := outValue e .oT3

/-- R132 to R135: the epilogue and the end of the run with its outputs. -/
def epilogueStep (s : State) : State :=
  { s with
    vertex := transformPosition s.vertex
    outputs := some (wiring (transformPosition s.vertex))
    stage := .ended }

/-- R135, R177: a step of a run that has ended: a recorded fault is answered as the result; after outputs nothing is left
to run. -/
def endStep (s : State) : Host.Outcome State Fault Refusal :=
  match s.trans.fault, s.vertex.fault with
  | some f, _ => .fault f
  | none, some f => .fault f
  | none, none => .refused .runComplete

end Sys2Proof.Machine
end

