-- ==== Sys2Proof/Machine/Body.lean ====
section
/-! DEFINITION. One step of a running body (R118, R134, R136): the instruction fetched, and the move past it. -/

namespace Sys2Proof.Machine

/-- R134: one instruction of the body, then the place of the next; past the body's last slot, the epilogue (R132). -/
def bodyStep (s : State) : Host.Outcome State Fault Refusal :=
  match fetch s with
  | none => .next (epilogueStep s)
  | some i =>
    match exec i s with
    | .next t => .next (advance t)
    | .fault f => .fault f
    | .refused r => .refused r

end Sys2Proof.Machine
end

