-- ==== Sys2Proof/Machine/Translator.lean ====
section
/-! DEFINITION. The program translator (R121 to R131): the scan over the slot stream, one slot a step (R124 to R128), and
the whole translation as one function of the slots (R124, R131). -/

namespace Sys2Proof.Machine

/-- R124, R125: the body with one more slot record. -/
def appendRecord (t : TransState) (w : Slot) (d : SlotInstr) : List SlotRecord := t.body ++ [⟨t.k, w, d⟩]

/-- R126, R136: the translator after a decoded slot: DONE at a final slot, the cursor kept; else the next slot. -/
def acceptSlot (w : Slot) (d : SlotInstr) (s : State) : State :=
  if d.final then
    { s with trans := { s.trans with mode := .done, body := appendRecord s.trans w d }, stage := .prologue }
  else { s with trans := { s.trans with k := s.trans.k + 1, body := appendRecord s.trans w d } }

/-- R124 to R128: one turn of the scan loop: exhaustion (R127), a decode fault (R128), or one more slot. -/
def scanSlot (s : State) : State :=
  match s.program[s.trans.k]? with
  | none => takeTranslationFault (.malformedProgram s.program.length) s
  | some w =>
    match decodeSlot w with
    | .error e => takeTranslationFault (Fault.ofDecode s.trans.k e) s
    | .ok d => acceptSlot w d s

/-- The scan step: it turns the loop while SCANNING; a translation that is over goes on to what follows it. -/
def scanStep (s : State) : State :=
  match s.trans.mode with
  | .scanning => scanSlot s
  | .done => { s with stage := .prologue }
  | .fault => { s with stage := .ended }

/-- R124: the scan of the slots from index k on, with N slots in all: the records of the slots up to the first final
one, or the first fault. -/
def translateFrom (N : Nat) : Nat → List Slot → Except Fault (List SlotRecord)
  | _, [] => .error (.malformedProgram N)
  | k, w :: ws =>
    match decodeSlot w with
    | .error e => .error (Fault.ofDecode k e)
    | .ok d =>
      if d.final then .ok [⟨k, w, d⟩]
      else
        match translateFrom N (k + 1) ws with
        | .error f => .error f
        | .ok rest => .ok (⟨k, w, d⟩ :: rest)

/-- R124, R131: `translate(P)`. -/
def translateProgram (P : List Slot) : Except Fault (List SlotRecord) := translateFrom P.length 0 P

end Sys2Proof.Machine
end

