-- ==== Sys2Proof/Machine/Launch.lean ====
section
/-! DEFINITION. What the host does to the block (R189, R190): forming the configuration (R80, R164), loading the words or
the bytes of a program (R37, R39, R121, R173), supplying the launch inputs and launching a vertex invocation (R29, R190),
and placing one slot as a translated program, which `State.withFetchWord` uses. -/

namespace Sys2Proof.Machine

/-- R80, R164: the check of a field table, made once when the configuration is formed. -/
def checkConfiguration (table : List Descriptor) : Except Fault Unit :=
  match fieldRangeViolation table with
  | none => .ok ()
  | some n => .error (.fieldRangeViolation n)

/-- R37: `P[k] = (word[4k], …, word[4k+3])`; none where the length is no multiple of 4. -/
def slotsOfWords : List Word → Option (List Slot)
  | [] => some []
  | a :: b :: c :: d :: rest => (slotsOfWords rest).map (fun P => ⟨a, b, c, d⟩ :: P)
  | [_] => none
  | [_, _] => none
  | [_, _, _] => none

/-- R39: a word from four bytes, the first at the lowest address. -/
def wordOfBytes (order : WordOrder) (b0 b1 b2 b3 : BitVec 8) : Word :=
  match order with
  | .littleEndian => b3 ++ b2 ++ b1 ++ b0
  | .bigEndian => b0 ++ b1 ++ b2 ++ b3

/-- R39: the words of a byte image; none where it is no whole number of words. -/
def wordsOfBytes (order : WordOrder) : List (BitVec 8) → Option (List Word)
  | [] => some []
  | a :: b :: c :: d :: rest => (wordsOfBytes order rest).map (fun ws => wordOfBytes order a b c d :: ws)
  | [_] => none
  | [_, _] => none
  | [_, _, _] => none

/-- R186: the start of a translation call on slots P; nothing of an earlier call carries over. -/
def startTranslation (P : List Slot) (tag : Word) (s : State) : State :=
  { s with
    program := P
    trans := .initial
    versionTag := tag
    stage := .translating
    slot := 0
    unit := .mac
    outputs := none }

/-- R121, R173, R189: loading a word sequence, or declining to. -/
def load (words : List Word) (tag : Word) (s : State) : Host.Outcome State Fault Refusal :=
  match checkConfiguration fieldTable with
  | .error f => .refused (.configurationRefused f)
  | .ok _ =>
    match slotsOfWords words with
    | none => .refused (.partialSlot words.length)
    | some P =>
      if Config.maxSlots < P.length then .refused (.programTooLong P.length) else .next (startTranslation P tag s)

/-- R39: loading from a byte image, in the byte order the machine was formed with. The spec speaks of whole words only: that
an image which is no whole number of words is refused, as partialWord, is the model's (DESIGN CHOICE, log entry 22). -/
def loadBytes (bytes : List (BitVec 8)) (tag : Word) (s : State) : Host.Outcome State Fault Refusal :=
  match wordsOfBytes s.params.wordOrder bytes with
  | none => .refused (.partialWord bytes.length)
  | some words => load words tag s

/-- R30, R33, R80: forming a machine from its static configuration, once, before any call: a machine right after reset with
the modes p, declined where the field table fails its check. It takes no state, so nothing switches the modes of a machine
that stands (R39: the byte order cannot be switched). -/
def configure (p : Params) : Host.Outcome State Fault Refusal :=
  match checkConfiguration fieldTable with
  | .error f => .refused (.configurationRefused f)
  | .ok _ => .next { State.reset with params := p }

/-- R29: the launch inputs the host supplies. -/
def supply (L : Launch) (s : State) : State := { s with launch := L }

/-- R190: the launch of a vertex invocation of a translated program. -/
def launchVertex (L : Launch) (s : State) : Host.Outcome State Fault Refusal :=
  match s.trans.mode with
  | .done => .next { s with launch := L, stage := .prologue, outputs := none }
  | .scanning => .refused .notTranslated
  | .fault => .refused .notTranslated

/-- A slot with both units NOP, a decodable operand C and the final flag (R120): what ends a program of one slot that
has no final flag of its own. -/
def endSlot : Slot := ⟨0x00000000, 0x0000001B, 0x0036006C, 0x10000001⟩

/-- One slot placed as the whole program, closed by `endSlot` where it is not final. Where it translates, the program is
translated and its leading instruction is the next to run; where its decoding faults, the next step takes that fault.
Registers, launch inputs, modes and version tag are kept. -/
def placeSlot (t : Slot) (s : State) : State :=
  let P := if (readFields t).final = 1 then [t] else [t, endSlot]
  let s0 := startTranslation P s.versionTag s
  match translateProgram P with
  | .ok body =>
    { s0 with trans := ⟨.done, body.length - 1, body, none⟩, stage := .executing, unit := leadingUnit (readFields t) }
  | .error _ => s0

end Sys2Proof.Machine
end

