-- ==== Sys2Proof/Machine/Step.lean ====
section
/-! DEFINITION. One step of the machine (R124, R134): a slot of the scan, the prologue, one instruction of the body, the
epilogue, or the answer of a run that has ended. -/

namespace Sys2Proof.Machine

/-- One step of the machine. -/
def step (s : State) : Host.Outcome State Fault Refusal :=
  match s.stage with
  | .translating => .next (scanStep s)
  | .prologue => .next (prologueStep s)
  | .executing => bodyStep s
  | .ended => endStep s

/-- The state with the slot of 128-bit value w (R10) placed as a translated program whose leading instruction runs at
the next step (`placeSlot`); log entry 9 says how a program comes to run from `State.reset`. -/
def State.withFetchWord (s : State) (nbits w : Nat) : State := placeSlot (slotOfNat (w % 2 ^ nbits)) s

end Sys2Proof.Machine
end

