-- ==== Sys2Proof/Safety.lean ====
section
/-! DEFINITION. What a run ends with (R135), what a safe run is, when an operand can be read and a destination written
(R94, R111), and the invariant of the machine: the translated body is the decoding of the slot stream. -/

namespace Sys2Proof.Machine

/-- R135: the three ends of a run. -/
inductive RunResult where
  | outputs (o : Outputs)
  | translationFault (f : Fault)
  | execFault (f : Fault)
deriving DecidableEq, Repr

/-- R135: the result of a run that has ended; none before. -/
def State.result (s : State) : Option RunResult :=
  match s.stage, s.trans.fault, s.vertex.fault with
  | .ended, some f, _ => some (.translationFault f)
  | .ended, none, some f => some (.execFault f)
  | .ended, none, none => s.outputs.map RunResult.outputs
  | .translating, _, _ => none
  | .prologue, _, _ => none
  | .executing, _, _ => none

/-- A state in which no fault has been taken: a run is safe as long as this holds. -/
def State.faultFree (s : State) : Prop := s.trans.fault = none ∧ s.vertex.fault = none

/-- R94: the operand's read is in range in state s. -/
def Readable (s : State) (o : Operand) : Prop :=
  match o.src with
  | .temp n => n.toNat ≤ 12
  | .attr _ => True
  | .const addr false => addr.toNat ≤ 191
  | .const addr true => 0 ≤ s.vertex.a0.toInt + addr.toNat ∧ s.vertex.a0.toInt + addr.toNat ≤ 191
  | .invalid _ => False

/-- R111: the destination names a register. -/
def VecDest.writable (d : VecDest) : Prop :=
  match d with
  | .reg n => n.toNat ≤ 12
  | .out (.named j) => j ≠ 1 ∧ j ≠ 2 ∧ j ≠ 13 ∧ j ≠ 14 ∧ j ≠ 15
  | .out (.const a) => a.toNat ≤ 191

/-- The temporary a destination names: R{n} for an R-statement, R12 for named output 0 (R21). -/
def VecDest.isTemp (d : VecDest) (n : Fin 13) : Bool :=
  match d with
  | .reg m => decide (m.toNat = n.val)
  | .out (.named j) => decide (j = 0 ∧ n = 12)
  | .out (.const _) => false

/-- The further output register a destination names (R71). -/
def VecDest.isOut (d : VecDest) (o : OutReg) : Bool :=
  match d with
  | .reg _ => false
  | .out (.named j) => decide (namedOutput j = some (.further o))
  | .out (.const _) => false

/-- The constant a destination names (R106). -/
def VecDest.isConst (d : VecDest) (a : Fin 192) : Bool :=
  match d with
  | .reg _ => false
  | .out (.named _) => false
  | .out (.const b) => decide (b.toNat = a.val)

/-- What only the run around the statements changes: the slot stream, the translator, the launch inputs, the
configuration, the version tag, the stage, the place of the next instruction, the outputs. -/
def SameRun (s t : State) : Prop :=
  t.program = s.program ∧ t.trans = s.trans ∧ t.launch = s.launch ∧ t.params = s.params ∧
    t.versionTag = s.versionTag ∧ t.stage = s.stage ∧ t.slot = s.slot ∧ t.unit = s.unit ∧ t.outputs = s.outputs

/-- R111: t is s after the write of result r to destination d under mask m: the named register takes r in its enabled
lanes, and nothing else changes. -/
def Wrote (d : VecDest) (m : Mask) (r : Vec4) (s t : State) : Prop :=
  SameRun s t ∧ t.draws = s.draws ∧ t.vertex.a0 = s.vertex.a0 ∧ t.vertex.attrs = s.vertex.attrs ∧
    t.vertex.clip = s.vertex.clip ∧ t.vertex.fault = s.vertex.fault ∧
    (∀ n : Fin 13, t.vertex.temps[n] =
      if d.isTemp n then mergeLanes s.params.partialLane m s.vertex.temps[n] r else s.vertex.temps[n]) ∧
    (∀ o : OutReg, outValue t.vertex o =
      if d.isOut o then mergeLanes s.params.partialLane m (outValue s.vertex o) r else outValue s.vertex o) ∧
    (∀ a : Fin 192, t.vertex.consts[a] =
      if d.isConst a then mergeLanes s.params.partialLane m s.vertex.consts[a] r else s.vertex.consts[a])

/-- R97, R108: t is s after a list of writes, each of a result that `value` relates to the state it is read in. -/
def Runs (value : State → Vec4 → Prop) : List (VecDest × Mask) → State → State → Prop
  | [], s, t => t = s
  | w :: ws, s, t => ∃ r u, value s r ∧ Wrote w.1 w.2 r s u ∧ Runs value ws u t

/-- The instruction without its named-output statement. -/
def withoutNamed (i : Instr) : Instr :=
  match i with
  | .macNop => .macNop
  | .macMov a o => .macMov a { o with named := none }
  | .macMul a b o => .macMul a b { o with named := none }
  | .macAdd a c o => .macAdd a c { o with named := none }
  | .macMad a b c o => .macMad a b c { o with named := none }
  | .macDp3 a b o => .macDp3 a b { o with named := none }
  | .macDph a b o => .macDph a b { o with named := none }
  | .macDp4 a b o => .macDp4 a b { o with named := none }
  | .macDst a b o => .macDst a b { o with named := none }
  | .macMin a b o => .macMin a b { o with named := none }
  | .macMax a b o => .macMax a b { o with named := none }
  | .macSlt a b o => .macSlt a b { o with named := none }
  | .macSge a b o => .macSge a b { o with named := none }
  | .macArl a _ => .macArl a none
  | .iluNop => .iluNop
  | .iluMov c o => .iluMov c { o with named := none }
  | .iluRcp c o => .iluRcp c { o with named := none }
  | .iluRcc c o => .iluRcc c { o with named := none }
  | .iluRsq c o => .iluRsq c { o with named := none }
  | .iluExp c o => .iluExp c { o with named := none }
  | .iluLog c o => .iluLog c { o with named := none }
  | .iluLit c o => .iluLit c { o with named := none }

/-- Wherever its operands can be read and its destinations written, the instruction answers a next state, and that state
is the one its writes give, each of a result `value` relates to the state it is read in. -/
def Completes (i : Instr) (value : State → Vec4 → Prop) : Prop :=
  ∀ s : State, (∀ o ∈ i.args, Readable s o) → (∀ w ∈ vecWrites i, w.1.writable) →
    ∃ t, exec i s = .next t ∧ Runs value (vecWrites i) s t

/-- R172, R175: the fault of a destination that names no register, raised in slot k. -/
def destFault (k : Nat) : VecDest → Fault
  | .reg n => .undeclaredRegister k n
  | .out (.named j) => .unmappedOutput k j
  | .out (.const a) => .constantIndexOutOfRange k a

/-- R94, R167 to R169: operand o, read in state s, is out of range with fault f. -/
def ReadFaults (s : State) (o : Operand) (f : Fault) : Prop :=
  match o.src with
  | .temp n => 12 < n.toNat ∧ f = .undeclaredRegister s.slot n
  | .attr _ => False
  | .const addr false => 191 < addr.toNat ∧ f = .constantIndexOutOfRange s.slot addr
  | .const addr true =>
    (s.vertex.a0.toInt + addr.toNat < 0 ∨ 191 < s.vertex.a0.toInt + addr.toNat) ∧
      f = .relativeIndexOutOfRange s.slot (s.vertex.a0.toInt + addr.toNat)
  | .invalid x => f = .invalidOperandClass s.slot x

/-- R124, R126: record j of the body is slot j of the stream with its decoding. -/
def RecordOf (P : List Slot) (j : Nat) (r : SlotRecord) : Prop :=
  r.index = j ∧ P[j]? = some r.words ∧ decodeSlot r.words = .ok r.code

/-- R124 to R130: the translator's state is one its scan of the slot stream reaches. -/
def TransInv (P : List Slot) (t : TransState) : Prop :=
  (∀ j r, t.body[j]? = some r → RecordOf P j r) ∧
  (∀ j r, t.body[j]? = some r → r.code.final = true → t.mode = .done ∧ j + 1 = t.body.length) ∧
  (match t.mode with
    | .scanning => t.k = t.body.length ∧ t.k ≤ P.length ∧ t.fault = none
    | .done => t.k + 1 = t.body.length ∧ t.fault = none ∧ ∃ r, t.body[t.k]? = some r ∧ r.code.final = true
    | .fault => t.body = [] ∧ t.fault.isSome)

/-- R134, R135: where the machine stands agrees with the translator, the cursor is inside the body or just past it, and
outputs are there exactly when a run has ended without a fault. -/
def RunInv (s : State) : Prop :=
  match s.stage with
  | .translating => s.trans.mode = .scanning ∧ s.outputs = none
  | .prologue => s.trans.mode = .done ∧ s.outputs = none
  | .executing =>
    s.trans.mode = .done ∧ s.outputs = none ∧ s.vertex.fault = none ∧ s.slot ≤ s.trans.body.length ∧
      (s.slot = s.trans.body.length → s.unit = .mac)
  | .ended =>
    s.trans.mode = .fault ∧ s.outputs = none ∨
      s.trans.mode = .done ∧ (s.outputs.isSome ↔ s.vertex.fault = none)

/-- The invariant of the machine. -/
def State.Inv (s : State) : Prop := TransInv s.program s.trans ∧ RunInv s

end Sys2Proof.Machine
end

