-- ==== Sys2Proof/Certificates/Slice0/Obligations.lean ====
section
/-! DEFINITION. The statements for the provers. A statement's docstring cites the rules it formalises; where a clause is
the model's choice it names the log entry. `Completes`, `Runs`, `Wrote`, `Readable`, `ReadFaults` and the invariant
`State.Inv` are defined in Safety.lean. -/

open Sys2Proof Sys2Proof.Machine

/-! ### Encoding -/

/-- R52, R56, R61, R66, R69, R70, R113: decoding the words of a well-formed slot gives back both its instructions, with
every operand and destination, and its final flag. -/
def Obligations.DecodeEncodeSlot : Prop :=
  ∀ d : SlotInstr, d.wf = true → decodeSlot (encodeSlot d) = .ok d

/-- R52, R67, R68: the words of a well-formed instruction decode, and its unit's instruction is the one encoded. The
partner the encoder picks is the model's choice (log entry 10). -/
def Obligations.DecodeEncodeInstr : Prop :=
  ∀ i : Instr, i.wf = true →
    ∃ d, decodeSlot (encode i) = .ok d ∧ d.instr i.unit = i ∧ readInstr (readFields (encode i)) i.unit = some i

/-- R81: a value put in its bit window of a zeroed slot reads back; and in any slot, writing one field's window gives that
field the value and changes no other field. -/
def Obligations.FieldRoundTrip : Prop :=
  ∀ (name : FieldName) (val : Word), val.toNat < 2 ^ (descriptor name).len →
    F (Slot.zero.setWord (descriptor name).word (val <<< (descriptor name).lo)) name = val ∧
      ∀ t : Slot, F (insertField t name val) name = val ∧
        ∀ other : FieldName, other ≠ name → F (insertField t name val) other = F t other

/-- R78: the extractor's value is the word shifted right by the start bit, cut to the bit length. -/
def Obligations.ExtractorReadsBitWindow : Prop :=
  ∀ (t : Slot) (word : Fin 4) (lo len : Nat), lo + len ≤ 32 →
    (extract t word lo len).toNat = (t.word word).toNat / 2 ^ lo % 2 ^ len

/-- R54: word 0 and word 1 bits 31:28 never change what a slot decodes to, nor its fault. -/
def Obligations.UnusedBitsNeverDecoded : Prop :=
  ∀ t u : Slot, t.w1.extractLsb' 0 28 = u.w1.extractLsb' 0 28 → t.w2 = u.w2 → t.w3 = u.w3 → decodeSlot t = decodeSlot u

/-- R56, R61, R90, R105, R113: whatever decodes without a fault is well formed. -/
def Obligations.DecodedSlotIsWellFormed : Prop :=
  ∀ (t : Slot) (d : SlotInstr), decodeSlot t = .ok d → d.wf = true

/-- R88, R113, R114, R115, R119: which fault a slot's decoding raises, in the order operand C, reserved MAC opcode,
operand A, operand B, the last two only where the opcode consumes them; and a slot with none of them decodes. -/
def Obligations.DecodeFaultOrder : Prop :=
  ∀ t : Slot,
    (F t .cMux = 0 → decodeSlot t = .error (.invalidOperandClass .c)) ∧
    (F t .cMux ≠ 0 → 13 < (F t .mac).toNat →
      decodeSlot t = .error (.reservedMacOpcode (BitVec.ofNat 4 (F t .mac).toNat))) ∧
    (∀ op : MacOp, F t .cMux ≠ 0 → (F t .mac).toNat = op.code.toNat →
      (op.usesA = true → F t .aMux = 0 → decodeSlot t = .error (.invalidOperandClass .a)) ∧
      ((op.usesA = true → F t .aMux ≠ 0) → op.usesB = true → F t .bMux = 0 →
        decodeSlot t = .error (.invalidOperandClass .b)) ∧
      ((op.usesA = true → F t .aMux ≠ 0) → (op.usesB = true → F t .bMux ≠ 0) →
        ∃ d, decodeSlot t = .ok d ∧ d.mac.macOp = some op ∧
          d.ilu.iluOp.map (fun q => q.code.toNat) = some (F t .ilu).toNat ∧ d.final = decide (F t .final = 1)))

/-- R80, R164: the check of a field table passes exactly where every descriptor's window lies inside 32 bits; where it
fails, whatever the fault, that fault is the FieldRangeViolation of a descriptor of the table whose window does not; and
the table of R52 passes it. -/
def Obligations.ConfigurationCheck : Prop :=
  (∀ table : List Descriptor,
    (checkConfiguration table = .ok () ↔ ∀ d ∈ table, d.lo + d.len ≤ 32) ∧
    (∀ f, checkConfiguration table = .error f →
      ∃ d ∈ table, f = .fieldRangeViolation d.name ∧ 32 < d.lo + d.len)) ∧
  checkConfiguration fieldTable = .ok ()

/-- R138, R140, R150, R154: words the spec gives decode to the instructions it gives for them. -/
def Obligations.KnownWordsDecode : Prop :=
  (decodeSlot ⟨0x00000000, 0x0020001B, 0x0836006C, 0x1F000001⟩ =
    .ok ⟨.macMov ⟨.attr 0, false, .identity⟩ ⟨0, 0xF, false, none⟩, .iluNop, true⟩) ∧
  (decodeSlot ⟨0x00000000, 0x0060001B, 0x1436006C, 0x9F300001⟩ =
    .ok ⟨.macAdd ⟨.temp 1, false, .identity⟩ ⟨.temp 2, false, .identity⟩ ⟨3, 0xF, false, none⟩, .iluNop, true⟩) ∧
  (decodeSlot ⟨0x00000000, 0x01A0021B, 0x0836006C, 0x10000001⟩ =
    .ok ⟨.macArl ⟨.attr 1, false, .identity⟩ none, .iluNop, true⟩) ∧
  (decodeSlot ⟨0x00000000, 0x0400001B, 0x0036012D, 0x50680001⟩ =
    .ok ⟨.macNop, .iluRcp ⟨.temp 5, false, .broadcast .y⟩ ⟨6, 0x8, false, none⟩, true⟩)

/-- R89, R90: operand C of a decoded slot has the broadcast of its x selector where the ILU opcode is in the
scalar-forcing set, for whichever unit consumes it, and its four encoded selectors otherwise. -/
def Obligations.ScalarForcingOfOperandC : Prop :=
  ∀ (t : Slot) (d : SlotInstr) (c : Operand), decodeSlot t = .ok d → (d.mac.opC = some c ∨ d.ilu.opC = some c) →
    (2 ≤ (F t .ilu).toNat ∧ (F t .ilu).toNat ≤ 6 →
      c.swz.x.lane.val = (F t .cSwzX).toNat ∧ c.swz.y.lane.val = (F t .cSwzX).toNat ∧
        c.swz.z.lane.val = (F t .cSwzX).toNat ∧ c.swz.w.lane.val = (F t .cSwzX).toNat) ∧
    ((F t .ilu).toNat < 2 ∨ 6 < (F t .ilu).toNat →
      c.swz.x.lane.val = (F t .cSwzX).toNat ∧ c.swz.y.lane.val = (F t .cSwzY).toNat ∧
        c.swz.z.lane.val = (F t .cSwzZ).toNat ∧ c.swz.w.lane.val = (F t .cSwzW).toNat)

/-- R86: `remap_const` is the identity on 0..255: the formula wins (90_conflicts.md C1). -/
def Obligations.RemapConstIsIdentity : Prop :=
  ∀ raw : BitVec 8, remapConst raw = raw

/-! ### Operands -/

/-- R94, R95: what the register read of an operand of class R, V or C answers: the register its class names where its index
is in range, else the fault of that class. -/
def Obligations.OperandReads : Prop :=
  ∀ (s : State) (neg : Bool) (z : Swizzle),
    (∀ (n : BitVec 4) (h : n.toNat < 13), readSource s (.temp n) = .ok s.vertex.temps[n.toNat]) ∧
    (∀ (n : BitVec 4) (h : n.toNat < 16), readSource s (.attr n) = .ok s.vertex.attrs[n.toNat]) ∧
    (∀ (a : BitVec 8) (h : a.toNat < 192), readSource s (.const a false) = .ok s.vertex.consts[a.toNat]) ∧
    (∀ (a : BitVec 8) (i : Fin 192), s.vertex.a0.toInt + a.toNat = i.val →
      readSource s (.const a true) = .ok s.vertex.consts[i]) ∧
    (∀ (src : Source) (f : Fault), (⟨src, neg, z⟩ : Operand).wf = true → ReadFaults s ⟨src, neg, z⟩ f →
      readSource s src = .error f)

/-- R83, R96: an operand's value is its register swizzled lane by lane, then negated in every lane where its sign bit
is set. -/
def Obligations.SwizzleThenNegate : Prop :=
  ∀ (s : State) (o : Operand) (v : Vec4), readSource s o.src = .ok v →
    ∃ r, evalOperand s o = .ok r ∧
      (o.neg = false → r.x = v.get o.swz.x.lane ∧ r.y = v.get o.swz.y.lane ∧ r.z = v.get o.swz.z.lane ∧
        r.w = v.get o.swz.w.lane) ∧
      (o.neg = true → r.x = Config.fp.neg (v.get o.swz.x.lane) ∧ r.y = Config.fp.neg (v.get o.swz.y.lane) ∧
        r.z = Config.fp.neg (v.get o.swz.z.lane) ∧ r.w = Config.fp.neg (v.get o.swz.w.lane))

/-! ### The MAC unit -/

/-- R137, R138: MOV completes wherever its operand can be read and its destinations written, each write of the value of
operand A. -/
def Obligations.MacMovCompletes : Prop :=
  ∀ (a : Operand) (o : Out), Completes (.macMov a o) (fun u r => evalOperand u a = .ok r)

/-- R137, R139, R140, R141, R146, R147: MUL, ADD (of operands A and C), MAD, MIN and MAX complete, each lane of their
result formed from that lane of their operands. -/
def Obligations.MacPerLaneCompletes : Prop :=
  ∀ (a b c : Operand) (o : Out),
    Completes (.macMul a b o) (fun u r => ∃ va vb, evalOperand u a = .ok va ∧ evalOperand u b = .ok vb ∧
      ∀ l, r.get l = Config.fp.mul (va.get l) (vb.get l)) ∧
    Completes (.macAdd a c o) (fun u r => ∃ va vc, evalOperand u a = .ok va ∧ evalOperand u c = .ok vc ∧
      ∀ l, r.get l = Config.fp.add (va.get l) (vc.get l)) ∧
    Completes (.macMad a b c o) (fun u r => ∃ va vb vc, evalOperand u a = .ok va ∧ evalOperand u b = .ok vb ∧
      evalOperand u c = .ok vc ∧ ∀ l, r.get l = Config.fp.mad (va.get l) (vb.get l) (vc.get l)) ∧
    Completes (.macMin a b o) (fun u r => ∃ va vb, evalOperand u a = .ok va ∧ evalOperand u b = .ok vb ∧
      ∀ l, r.get l = Config.fp.min (va.get l) (vb.get l)) ∧
    Completes (.macMax a b o) (fun u r => ∃ va vb, evalOperand u a = .ok va ∧ evalOperand u b = .ok vb ∧
      ∀ l, r.get l = Config.fp.max (va.get l) (vb.get l))

/-- R137, R142, R143, R144: DP3, DPH and DP4 complete, every lane of their result the one dot product; DPH takes 1 for
the w lane of operand A. -/
def Obligations.MacDotProductsComplete : Prop :=
  ∀ (a b : Operand) (o : Out),
    Completes (.macDp3 a b o) (fun u r => ∃ va vb, evalOperand u a = .ok va ∧ evalOperand u b = .ok vb ∧
      ∀ l, r.get l = Config.fp.dot3 va.x va.y va.z vb.x vb.y vb.z) ∧
    Completes (.macDph a b o) (fun u r => ∃ va vb, evalOperand u a = .ok va ∧ evalOperand u b = .ok vb ∧
      ∀ l, r.get l = Config.fp.dot4 ⟨va.x, va.y, va.z, Config.fp.one⟩ vb) ∧
    Completes (.macDp4 a b o) (fun u r => ∃ va vb, evalOperand u a = .ok va ∧ evalOperand u b = .ok vb ∧
      ∀ l, r.get l = Config.fp.dot4 va vb)

/-- R137, R145: DST completes with (1, a.y·b.y, a.z, b.w). -/
def Obligations.MacDstCompletes : Prop :=
  ∀ (a b : Operand) (o : Out),
    Completes (.macDst a b o) (fun u r => ∃ va vb, evalOperand u a = .ok va ∧ evalOperand u b = .ok vb ∧
      r.x = Config.fp.one ∧ r.y = Config.fp.mul va.y vb.y ∧ r.z = va.z ∧ r.w = vb.w)

/-- R137, R148, R149: SLT and SGE complete, each lane the exact 1 where the comparison of that lane holds and the exact
0 where it does not. -/
def Obligations.MacComparisonsComplete : Prop :=
  ∀ (a b : Operand) (o : Out),
    Completes (.macSlt a b o) (fun u r => ∃ va vb, evalOperand u a = .ok va ∧ evalOperand u b = .ok vb ∧
      ∀ l, r.get l = if Config.fp.lt (va.get l) (vb.get l) then Config.fp.one else Config.fp.zero) ∧
    Completes (.macSge a b o) (fun u r => ∃ va vb, evalOperand u a = .ok va ∧ evalOperand u b = .ok vb ∧
      ∀ l, r.get l = if Config.fp.ge (va.get l) (vb.get l) then Config.fp.one else Config.fp.zero)

/-- R104, R150: an ARL with no named-output stage completes: A0 takes the truncation of `a.x` where that is an int32,
and otherwise an arbitrary int32 (the free value of log entry 3); nothing else of the machine changes. -/
def Obligations.ArlLoadsAddressRegister : Prop :=
  ∀ (a : Operand) (s : State) (v : Vec4), evalOperand s a = .ok v →
    ∃ n : BitVec 32,
      exec (.macArl a none) s = .next { s with vertex := { s.vertex with a0 := n }, draws := s.draws + 1 } ∧
      (match Config.fp.toIntTrunc v.x with
        | some k => if -2 ^ 31 ≤ k ∧ k ≤ 2 ^ 31 - 1 then n.toInt = k else n = Config.arlDraw s.draws
        | none => n = Config.arlDraw s.draws)

/-- R110, R171, R172, R175: an ARL routed to the named-output stage leaves the write of its own A0, then reads its
operand again: it takes that read's fault where the new A0 puts it out of range, else ArlNamedOutput. -/
def Obligations.ArlIntoNamedOutputFaults : Prop :=
  ∀ (a : Operand) (n : NamedOut) (s t : State), Readable s a → exec (.macArl a none) s = .next t →
    ∃ f, exec (.macArl a (some n)) s =
        .next { t with vertex := { t.vertex with fault := some f }, stage := .ended } ∧
      (ReadFaults t a f ∨ Readable t a ∧ f = .arlNamedOutput s.slot)

/-- R116, R117: the NOP of either unit completes and changes nothing. -/
def Obligations.NopsChangeNothing : Prop :=
  ∀ s : State, exec .macNop s = .next s ∧ exec .iluNop s = .next s

/-! ### The ILU unit -/

/-- R152, R153: ILU MOV completes, each write of the value of operand C. -/
def Obligations.IluMovCompletes : Prop :=
  ∀ (c : Operand) (o : Out), Completes (.iluMov c o) (fun u r => evalOperand u c = .ok r)

/-- R152, R154, R156, R157, R158: RCP, RSQ, EXP and LOG complete, every lane of their result the one scalar of the x
lane of operand C. -/
def Obligations.IluScalarOpsComplete : Prop :=
  ∀ (c : Operand) (o : Out),
    Completes (.iluRcp c o) (fun u r => ∃ v, evalOperand u c = .ok v ∧ ∀ l, r.get l = Config.fp.div Config.fp.one v.x) ∧
    Completes (.iluRsq c o) (fun u r => ∃ v, evalOperand u c = .ok v ∧
      ∀ l, r.get l = Config.fp.div Config.fp.one (Config.fp.sqrt v.x)) ∧
    Completes (.iluExp c o) (fun u r => ∃ v, evalOperand u c = .ok v ∧ ∀ l, r.get l = Config.fp.exp2 v.x) ∧
    Completes (.iluLog c o) (fun u r => ∃ v, evalOperand u c = .ok v ∧ ∀ l, r.get l = Config.fp.log2 v.x)

/-- R152, R155: RCC completes, the reciprocal clamped to the positive bounds where it is strictly positive, else to the
negative ones, which are the negations of the two bounds (log entry 11). -/
def Obligations.IluRccCompletes : Prop :=
  ∀ (c : Operand) (o : Out),
    Completes (.iluRcc c o) (fun u r => ∃ v q, evalOperand u c = .ok v ∧ q = Config.fp.div Config.fp.one v.x ∧
      ∀ l, r.get l =
        if Config.fp.gt q Config.fp.zero then Config.fp.clamp q Config.fp.rccMin Config.fp.rccMax
        else Config.fp.clamp q (Config.fp.neg Config.fp.rccMax) (Config.fp.neg Config.fp.rccMin))

/-- R152, R159: LIT completes with (1, max(a.x,0), pow(a.y,a.w) where a.x and a.y are strictly positive and else 0, 1). -/
def Obligations.IluLitCompletes : Prop :=
  ∀ (c : Operand) (o : Out),
    Completes (.iluLit c o) (fun u r => ∃ v, evalOperand u c = .ok v ∧ r.x = Config.fp.one ∧
      r.y = Config.fp.max v.x Config.fp.zero ∧
      r.z = (if Config.fp.gt v.x Config.fp.zero ∧ Config.fp.gt v.y Config.fp.zero then Config.fp.pow v.y v.w
        else Config.fp.zero) ∧
      r.w = Config.fp.one)

/-! ### The emitter -/

/-- R67 to R69, R101 to R108, R114, R116, R117: the statements of each unit of a decoded slot, in order, from the slot's
own fields: unit, opcode name, destination, mask, and the consumed operands in A, B, C order. What each operand is:
`OperandFromSlotFields`. -/
def Obligations.EmitterStatements : Prop :=
  ∀ (t : Slot) (d : SlotInstr), decodeSlot t = .ok d →
    let A := (readFields t).operand .a
    let B := (readFields t).operand .b
    let C := (readFields t).operand .c
    let mac := (F t .mac).toNat
    let macName : String :=
      ["NOP", "MOV", "MUL", "ADD", "MAD", "DP3", "DPH", "DP4", "DST", "MIN", "MAX", "SLT", "SGE", "ARL"].getD mac ""
    let iluName : String := ["NOP", "MOV", "RCP", "RCC", "RSQ", "EXP", "LOG", "LIT"].getD (F t .ilu).toNat ""
    let macArgs : List Operand :=
      if mac = 1 ∨ mac = 13 then [A] else if mac = 3 then [A, C] else if mac = 4 then [A, B, C] else [A, B]
    let reg : BitVec 4 := BitVec.ofNat 4 (F t .outR).toNat
    let om : Mask := BitVec.ofNat 4 (F t .outOMask).toNat
    let D : OutDest :=
      if F t .outOrb = 0 then .const (remapConst (BitVec.ofNat 8 (F t .outAddress).toNat))
      else .named (BitVec.ofNat 4 ((F t .outAddress).toNat % 16))
    let macMask : Mask := if F t .ilu ≠ 0 ∧ reg = 1 then 0 else BitVec.ofNat 4 (F t .outMacMask).toNat
    let iluMask : Mask := BitVec.ofNat 4 (F t .outIluMask).toNat
    let iluReg : BitVec 4 := if F t .mac ≠ 0 then 1 else reg
    let macStmt := fun (e : Dest) (m : Mask) => Stmt.mk .mac macName e m macArgs
    let iluStmt := fun (e : Dest) (m : Mask) => Stmt.mk .ilu iluName e m [C]
    let macOut := if F t .outMux = 0 ∧ om ≠ 0 then [macStmt (.vec (.out D)) om] else []
    let iluOut := if F t .outMux = 1 ∧ om ≠ 0 then [iluStmt (.vec (.out D)) om] else []
    (F t .mac = 0 → stmtsOf d.mac = []) ∧
    (F t .mac = 13 → stmtsOf d.mac = macStmt .addrA0 0xF :: macOut) ∧
    (F t .mac ≠ 0 → F t .mac ≠ 13 →
      stmtsOf d.mac = (if macMask ≠ 0 then [macStmt (.vec (.reg reg)) macMask] else []) ++ macOut) ∧
    (F t .ilu = 0 → stmtsOf d.ilu = []) ∧
    (F t .ilu ≠ 0 →
      stmtsOf d.ilu = (if iluMask ≠ 0 then [iluStmt (.vec (.reg iluReg)) iluMask] else []) ++ iluOut)

/-- R101, R102, R194: in a co-issued slot no MAC statement writes R1 as an R-register, and the ILU's R-statement writes
no register but R1. -/
def Obligations.CoissuedRegisterOne : Prop :=
  ∀ (t : Slot) (d : SlotInstr), decodeSlot t = .ok d → F t .mac ≠ 0 → F t .ilu ≠ 0 →
    (∀ w ∈ vecWrites d.mac, w.1 ≠ .reg 1) ∧ (∀ w ∈ vecWrites d.ilu, ∀ n, w.1 = .reg n → n = 1)

/-- R118: a decoded slot holds at most three statements, the MAC unit's before the ILU's; two NOPs hold none (R120). -/
def Obligations.AtMostThreeStatements : Prop :=
  ∀ (t : Slot) (d : SlotInstr), decodeSlot t = .ok d →
    (slotStmts d).length ≤ 3 ∧ slotStmts d = stmtsOf d.mac ++ stmtsOf d.ilu ∧
      (F t .mac = 0 → F t .ilu = 0 → slotStmts d = [])

/-! ### Faults of a statement -/

/-- R97, R167, R168, R169, R172, R175: an instruction with a statement takes the fault of its first operand out of range,
and changes nothing else; an instruction with no statement reads nothing and changes nothing. For an operand of class 0,
which no translated slot holds, that an execution takes InvalidOperandClass is the model's choice: log entry 17. -/
def Obligations.UnreadableOperandFaults : Prop :=
  ∀ (i : Instr) (s : State),
    (∀ (pre post : List Operand) (o : Operand) (f : Fault), stmtDests i ≠ [] → i.args = pre ++ o :: post →
      (∀ p ∈ pre, Readable s p) → ReadFaults s o f →
      exec i s = .next { s with vertex := { s.vertex with fault := some f }, stage := .ended }) ∧
    (stmtDests i = [] → exec i s = .next s)

/-- R167, R168, R170, R172, R175: with its operands in range, a vector instruction takes the fault of a destination that
names no register: the first statement's before anything is written, the second's after the first statement's write,
which stands. -/
def Obligations.UnwritableDestinationFaults : Prop :=
  ∀ (i : Instr) (s : State), i.macOp ≠ some .arl → (∀ o ∈ i.args, Readable s o) →
    (∀ (w : VecDest × Mask) (ws : List (VecDest × Mask)), vecWrites i = w :: ws → ¬w.1.writable →
      exec i s =
        .next { s with vertex := { s.vertex with fault := some (destFault s.slot w.1) }, stage := .ended }) ∧
    (∀ (w w' : VecDest × Mask) (u : State), vecWrites i = [w, w'] → w.1.writable → ¬w'.1.writable →
      exec (withoutNamed i) s = .next u →
      exec i s =
        .next { u with vertex := { u.vertex with fault := some (destFault s.slot w'.1) }, stage := .ended })

/-! ### Frames -/

/-- R23, R41, R48, R111: an instruction changes no lane of a temporary, a further output or a constant but those its
statements' masks enable in the registers they name; no input, launch value, configuration, version tag, slot or translator state; and
not the place of the next instruction. -/
def Obligations.ExecFrame : Prop :=
  ∀ (i : Instr) (s t : State), exec i s = .next t →
    (∀ (n : Fin 13) (l : Fin 4), (∀ w ∈ vecWrites i, w.1.isTemp n = true → enabled w.2 l = false) →
      t.vertex.temps[n].get l = s.vertex.temps[n].get l) ∧
    (∀ (o : OutReg) (l : Fin 4), (∀ w ∈ vecWrites i, w.1.isOut o = true → enabled w.2 l = false) →
      (outValue t.vertex o).get l = (outValue s.vertex o).get l) ∧
    (∀ (a : Fin 192) (l : Fin 4), (∀ w ∈ vecWrites i, w.1.isConst a = true → enabled w.2 l = false) →
      t.vertex.consts[a].get l = s.vertex.consts[a].get l) ∧
    t.vertex.attrs = s.vertex.attrs ∧ t.vertex.clip = s.vertex.clip ∧ t.program = s.program ∧ t.trans = s.trans ∧
    t.launch = s.launch ∧ t.params = s.params ∧ t.versionTag = s.versionTag ∧ t.slot = s.slot ∧ t.unit = s.unit ∧
    t.outputs = s.outputs ∧
    (t.stage = s.stage ∧ t.vertex.fault = s.vertex.fault ∨ t.stage = .ended ∧ t.vertex.fault.isSome)

/-- R24: no instruction but ARL changes the address register. -/
def Obligations.OnlyArlWritesAddressRegister : Prop :=
  ∀ (i : Instr) (s t : State), exec i s = .next t → i.macOp ≠ some .arl →
    t.vertex.a0 = s.vertex.a0 ∧ t.draws = s.draws

/-- R16, R25, R26, R30, R48: no step changes the slot stream, the launch inputs, the static configuration or the version
tag, and no step of a body changes an input attribute or the translated body. -/
def Obligations.StepKeepsInputs : Prop :=
  ∀ s t : State, step s = .next t →
    t.program = s.program ∧ t.launch = s.launch ∧ t.params = s.params ∧ t.versionTag = s.versionTag ∧
    (s.stage = .executing → t.vertex.attrs = s.vertex.attrs ∧ t.vertex.clip = s.vertex.clip ∧ t.trans = s.trans)

/-! ### Registers -/

/-- R9, R20, R24, R28, R35, R39, R186, R188: what reset leaves: the registers and outputs at (0,0,0,1), A0 at 0, no fault, the
modes of R9 at their defaults, the translator scanning at slot 0 with nothing translated. -/
def Obligations.ResetState : Prop :=
  let s := State.reset
  (∀ n : Fin 13, s.vertex.temps[n] = ⟨Config.fp.zero, Config.fp.zero, Config.fp.zero, Config.fp.one⟩) ∧
  (∀ o : OutReg, outValue s.vertex o = ⟨Config.fp.zero, Config.fp.zero, Config.fp.zero, Config.fp.one⟩) ∧
  s.vertex.a0 = 0 ∧ s.vertex.fault = none ∧ s.trans.mode = .scanning ∧ s.trans.k = 0 ∧ s.trans.body = [] ∧
  s.trans.fault = none ∧ s.params.partialLane = .aligned ∧ s.params.wordOrder = .littleEndian

/-- R21: a write to R12 is a write to oPos and a write to oPos is a write to R12, of any result under any mask; a read
of R12 sees the write through either name. -/
def Obligations.PositionIsRegisterTwelve : Prop :=
  ∀ (m : Mask) (r : Vec4) (s : State), ∃ t : State,
    writeDest (.reg 12) m r s = .ok t ∧ writeDest (.out (.named 0)) m r s = .ok t ∧
    readSource t (.temp 12) = .ok (position t.vertex) ∧
    position t.vertex = mergeLanes s.params.partialLane m (position s.vertex) r

/-- R71, R107, R170: the named-output table: index 0 is oPos, 3 to 12 the ten further outputs, and the other five are
placeholders, whose write faults. -/
def Obligations.NamedOutputTable : Prop :=
  ∀ (m : Mask) (r : Vec4) (s : State) (j : BitVec 4) (o : OutReg),
    ((j = 1 ∨ j = 2 ∨ 13 ≤ j.toNat) → writeDest (.out (.named j)) m r s = .error (.unmappedOutput s.slot j)) ∧
    ((j, o) ∈ [(3, OutReg.oD0), (4, .oD1), (5, .oFog), (6, .oPts), (7, .oB0), (8, .oB1), (9, .oT0), (10, .oT1),
        (11, .oT2), (12, .oT3)] →
      ∃ t, writeDest (.out (.named j)) m r s = .ok t ∧
        outValue t.vertex o = mergeLanes s.params.partialLane m (outValue s.vertex o) r)

/-- R60, R111: a masked write: bit 3 of the mask is lane x and bit 0 lane w; a lane whose bit is clear keeps its value;
an enabled lane i takes result lane i when aligned, and the result lane numbered by the enabled lanes before it when
packed. -/
def Obligations.MaskedWrite : Prop :=
  ∀ (m : Mask) (old r : Vec4) (i k : Fin 4), k.val = (List.finRange 4).countP (fun j => decide (j < i) && m.getLsbD (3 - j.val)) →
    (m.getLsbD (3 - i.val) = false → ∀ mode, (mergeLanes mode m old r).get i = old.get i) ∧
    (m.getLsbD (3 - i.val) = true →
      (mergeLanes .aligned m old r).get i = r.get i ∧ (mergeLanes .packed m old r).get i = r.get k)

/-! ### The translator -/

/-- R124 to R130, R166: the machine's slot-by-slot scan computes the translation function: DONE with its records after one
step a slot, or FAULT with its fault, no records and nothing else changed. One slot a step is the model's cut of the run
(log entry 6); that the body is emptied and the cursor kept in FAULT is the model's reading of R166 (log entry 15). -/
def Obligations.StepwiseScanIsTranslate : Prop :=
  ∀ s : State, s.stage = .translating → s.trans = TransState.initial →
    (∀ body, translateProgram s.program = .ok body →
      Sys2Proof.core.run body.length s =
        .next { s with trans := ⟨.done, body.length - 1, body, none⟩, stage := .prologue }) ∧
    (∀ f, translateProgram s.program = .error f →
      ∃ n, n ≤ s.program.length ∧
        Sys2Proof.core.run (n + 1) s = .next { s with trans := ⟨.fault, n, [], some f⟩, stage := .ended })

/-- R126: slots after the first final one are never read: what follows a program that translates changes nothing. -/
def Obligations.SlotsAfterFinalNeverRead : Prop :=
  ∀ (P Q : List Slot) (body : List SlotRecord), translateProgram P = .ok body → translateProgram (P ++ Q) = .ok body

/-- R127, R162: a stream whose slots all decode and none of which is final fails as MalformedProgram with the number of
slots. -/
def Obligations.NoFinalSlotIsMalformed : Prop :=
  ∀ P : List Slot, (∀ w ∈ P, ∃ d, decodeSlot w = .ok d ∧ d.final = false) →
    translateProgram P = .error (.malformedProgram P.length)

/-- R128, R174: the first slot that does not decode, with no final slot before it, ends the translation with its fault
and its index, whatever follows. -/
def Obligations.FirstDecodeFaultEndsTranslation : Prop :=
  ∀ (P Q : List Slot) (w : Slot), (∀ x ∈ P, ∃ d, decodeSlot x = .ok d ∧ d.final = false) →
    (∀ x, decodeSlot w = .error (.invalidOperandClass x) →
      translateProgram (P ++ w :: Q) = .error (.invalidOperandClass P.length x)) ∧
    (∀ v, decodeSlot w = .error (.reservedMacOpcode v) →
      translateProgram (P ++ w :: Q) = .error (.reservedMacOpcode P.length v))

/-- R37, R121, R173, R186: what loading a word sequence does: a length that is no multiple of 4 is refused, so is one
beyond the limit, and any other starts a fresh translation of the slots the words make. Two clauses are the model's
choice: that a partial slot is refused before the limit is looked at (log entry 4), and that a load leaves the last
invocation's registers and the launch inputs alone (log entry 18). -/
def Obligations.LoadOutcomes : Prop :=
  ∀ (words : List Word) (tag : Word) (s : State),
    (words.length % 4 ≠ 0 → load words tag s = .refused (.partialSlot words.length)) ∧
    (words.length % 4 = 0 → Config.maxSlots < words.length / 4 →
      load words tag s = .refused (.programTooLong (words.length / 4))) ∧
    (words.length % 4 = 0 → words.length / 4 ≤ Config.maxSlots →
      ∃ t, load words tag s = .next t ∧ t.stage = .translating ∧ t.trans = TransState.initial ∧
        t.vertex = s.vertex ∧ t.launch = s.launch ∧ t.params = s.params ∧ t.versionTag = tag ∧ t.program.length = words.length / 4 ∧
        ∀ (k : Nat) (w : Slot), t.program[k]? = some w →
          words[4 * k]? = some w.w0 ∧ words[4 * k + 1]? = some w.w1 ∧ words[4 * k + 2]? = some w.w2 ∧
            words[4 * k + 3]? = some w.w3)

/-- R39: loading a byte image is loading its words, word k from bytes 4k to 4k+3 in the byte order of the configuration,
little-endian with the least significant byte at the lowest address. That an image of no whole number of words is refused
is the model's choice (log entry 22), and so is big-endian as the other order (log entry 24). -/
def Obligations.ByteImageLoads : Prop :=
  ∀ (bytes : List (BitVec 8)) (tag : Word) (s : State),
    (bytes.length % 4 ≠ 0 → loadBytes bytes tag s = .refused (.partialWord bytes.length)) ∧
    (bytes.length % 4 = 0 →
      ∃ words, loadBytes bytes tag s = load words tag s ∧ words.length = bytes.length / 4 ∧
        ∀ (k : Nat) (w : Word) (b0 b1 b2 b3 : BitVec 8), words[k]? = some w → bytes[4 * k]? = some b0 →
          bytes[4 * k + 1]? = some b1 → bytes[4 * k + 2]? = some b2 → bytes[4 * k + 3]? = some b3 →
          w.toNat = match s.params.wordOrder with
            | .littleEndian => b0.toNat + 2 ^ 8 * b1.toNat + 2 ^ 16 * b2.toNat + 2 ^ 24 * b3.toNat
            | .bigEndian => b3.toNat + 2 ^ 8 * b2.toNat + 2 ^ 16 * b1.toNat + 2 ^ 24 * b0.toNat)

/-- R30, R33, R39: the modes are set where a machine is formed, which gives a machine right after reset in those modes; no
step and no call of the host changes them afterwards, so the byte order cannot be switched. Of the version tag a load alone
changes the value. That R9's two modes are of R33's static configuration is DEDUCED, log entry 14. -/
def Obligations.ConfigurationIsFixed : Prop :=
  (∀ p : Params, configure p = .next { State.reset with params := p }) ∧
  ∀ s t : State,
    (step s = .next t → t.params = s.params ∧ t.versionTag = s.versionTag) ∧
    (∀ words tag, load words tag s = .next t → t.params = s.params ∧ t.versionTag = tag) ∧
    (∀ bytes tag, loadBytes bytes tag s = .next t → t.params = s.params ∧ t.versionTag = tag) ∧
    (∀ L, (supply L s).params = s.params ∧ (supply L s).versionTag = s.versionTag) ∧
    (∀ L, launchVertex L s = .next t → t.params = s.params ∧ t.versionTag = s.versionTag)

/-- R125, R129, R130: a translation returns text exactly when it is DONE: one blob of prologue, entry point, the slots'
texts joined in slot order, and epilogue. What a slot's text is: `SlotTextIsCanonical`. -/
def Obligations.TextOnlyWhenDone : Prop :=
  ∀ t : TransState,
    (t.mode = .done → outputText t =
      some (Config.prologueText ++ Config.entryOpenText ++ String.join (t.body.map slotText) ++ Config.epilogueText)) ∧
    (t.mode ≠ .done → outputText t = none)

/-- R91: the swizzle suffix: none for the identity, one letter where all four selectors are one, else four letters in
lane order. -/
def Obligations.SwizzleSuffix : Prop :=
  let L : Sel → String := fun l => ["x", "y", "z", "w"].getD l.lane.val ""
  ∀ z : Swizzle,
    (z = ⟨.x, .y, .z, .w⟩ → swizzleText z = "") ∧
    (z.x = z.y ∧ z.y = z.z ∧ z.z = z.w → swizzleText z = "." ++ L z.x) ∧
    (z ≠ ⟨.x, .y, .z, .w⟩ → ¬(z.x = z.y ∧ z.y = z.z ∧ z.z = z.w) →
      swizzleText z = "." ++ L z.x ++ L z.y ++ L z.z ++ L z.w)

/-! ### The run -/

/-- R118, R134, R136: in a state of the invariant, with the body not yet past its last slot, a step runs the instruction
its unit has in the decoding of the slot at the cursor, which is well formed, and then moves on: to the ILU of the same
slot, or to the MAC of the next, unless a fault ended the run. The rules give the order of the statements; that one unit's
instruction is one step, and so where the cursor stands after it, is the model's cut of the run (log entry 6). -/
def Obligations.StepRunsDecodedInstruction : Prop :=
  ∀ (s : State) (w : Slot) (d : SlotInstr), s.Inv → s.stage = .executing → s.slot < s.trans.body.length →
    s.program[s.slot]? = some w → decodeSlot w = .ok d →
    (d.instr s.unit).wf = true ∧
    ∃ t, exec (d.instr s.unit) s = .next t ∧
      (t.stage = .executing → s.unit = .mac → step s = .next { t with unit := .ilu }) ∧
      (t.stage = .executing → s.unit = .ilu → step s = .next { t with slot := s.slot + 1, unit := .mac }) ∧
      (t.stage ≠ .executing → step s = .next t)

/-- A slot that decodes, placed by `withFetchWord`, runs at the very next step as the instruction `decodeTableWord`
answers for it (log entry 9). -/
def Obligations.FetchWordRunsItsInstruction : Prop :=
  ∀ (s : State) (w : Nat) (d : SlotInstr), decodeSlot (slotOfNat (w % 2 ^ 128)) = .ok d →
    ∃ i, decodeTableWord 128 w = some i ∧ (s.withFetchWord 128 w).stage = .executing ∧
      fetch (s.withFetchWord 128 w) = some i ∧ (s.withFetchWord 128 w).vertex = s.vertex

/-- The invariant holds after reset. -/
def Obligations.InvariantAtReset : Prop := State.reset.Inv

/-- R124 to R130, R134, R135: every step keeps the invariant: the translated body is the decoding of the slot stream up
to its first final slot, the cursor and the mode agree with it, a FAULT keeps no body, the executing machine stands in
or just past the body, and outputs are there exactly when a run has ended without a fault. -/
def Obligations.StepKeepsInvariant : Prop :=
  ∀ s t : State, s.Inv → step s = .next t → t.Inv

/-- R186, R189, R190: loading a program and launching a vertex invocation keep the invariant, the load from any state. -/
def Obligations.HostCallsKeepInvariant : Prop :=
  ∀ s t : State,
    (∀ words tag, load words tag s = .next t → t.Inv) ∧ (∀ L, s.Inv → launchVertex L s = .next t → t.Inv)

/-- R135, R185: from every state of the invariant the run ends, within three steps a slot and three more. What a step is,
and so the bound, is the model's cut of the run: log entry 6. -/
def Obligations.EveryRunEnds : Prop :=
  ∀ s : State, s.Inv →
    ∃ n t, n ≤ 3 * s.program.length + 3 ∧ Sys2Proof.core.run n s = .next t ∧ t.stage = .ended

/-- R135, R177: a run that has ended is in exactly one of three ways: outputs and no fault; a translation fault, with no
body and no outputs; an execution fault and no outputs. The next step answers the fault, or has nothing to run: the
model's form of an ended run (log entry 12). -/
def Obligations.RunEndsInOneOfThreeWays : Prop :=
  ∀ s : State, s.Inv → s.stage = .ended →
    (∃ o, s.outputs = some o ∧ s.trans.fault = none ∧ s.vertex.fault = none ∧ s.result = some (.outputs o) ∧
      step s = .refused .runComplete) ∨
    (∃ f, s.outputs = none ∧ s.trans.fault = some f ∧ s.trans.body = [] ∧ s.result = some (.translationFault f) ∧
      step s = .fault f) ∨
    (∃ f, s.outputs = none ∧ s.trans.fault = none ∧ s.vertex.fault = some f ∧ s.result = some (.execFault f) ∧
      step s = .fault f)

/-- R187, R188: the state a vertex invocation starts from. -/
def Obligations.PrologueDeclaresState : Prop :=
  ∀ s : State, s.stage = .prologue →
    ∃ t, step s = .next t ∧
      (∀ n : Fin 13, t.vertex.temps[n] = ⟨Config.fp.zero, Config.fp.zero, Config.fp.zero, Config.fp.one⟩) ∧
      t.vertex.a0 = 0 ∧
      (∀ o : OutReg, outValue t.vertex o = ⟨Config.fp.zero, Config.fp.zero, Config.fp.zero, Config.fp.one⟩) ∧
      t.vertex.consts = s.launch.c ∧ t.vertex.attrs = s.launch.v ∧ t.vertex.clip = s.launch.clip ∧
      t.vertex.fault = none ∧ t.stage = .executing ∧ t.slot = 0 ∧ t.unit = .mac ∧ t.trans = s.trans

/-- R26, R183, R187: no value of an earlier invocation reaches a later one: two launches of the same inputs on the same
translated program run alike, whatever the invocations before them left, given the same count of earlier draws. -/
def Obligations.InvocationsAreIndependent : Prop :=
  ∀ (s s' t t' : State) (L : Launch) (n : Nat), s.program = s'.program → s.trans = s'.trans → s.params = s'.params →
    s.versionTag = s'.versionTag → s.draws = s'.draws → launchVertex L s = .next t → launchVertex L s' = .next t' →
    Sys2Proof.core.run (n + 1) t = Sys2Proof.core.run (n + 1) t'

/-- R27, R132, R133: past the last slot of the body a step runs the epilogue: each of x, y, z of oPos less the viewport
offset, divided by the viewport scale unless that is zero, times W; W kept; and the outputs wired. -/
def Obligations.EpilogueTransformsAndWires : Prop :=
  ∀ s : State, s.stage = .executing → s.slot = s.trans.body.length →
    let S := s.vertex.consts[58]
    let O := s.vertex.consts[59]
    let P := s.vertex.temps[12]
    let axis := fun (p o c : Lane) =>
      Config.fp.mul (if Config.fp.eqzero c then Config.fp.add p (Config.fp.neg o)
        else Config.fp.div (Config.fp.add p (Config.fp.neg o)) c) P.w
    ∃ t w, step s = .next t ∧ t.stage = .ended ∧ t.outputs = some w ∧
      t.vertex.temps[12] = ⟨axis P.x O.x S.x, axis P.y O.y S.y, axis P.z O.z S.z, P.w⟩ ∧
      w.position = t.vertex.temps[12] ∧
      (∀ n : Fin 13, n ≠ 12 → t.vertex.temps[n] = s.vertex.temps[n]) ∧
      t.vertex.outs = s.vertex.outs ∧ t.vertex.consts = s.vertex.consts ∧ t.vertex.a0 = s.vertex.a0 ∧
      w.frontPrimary = outValue s.vertex .oD0 ∧ w.frontSecondary = outValue s.vertex .oD1 ∧
      w.backPrimary = outValue s.vertex .oB0 ∧ w.backSecondary = outValue s.vertex .oB1 ∧
      w.pointSize = (outValue s.vertex .oPts).x ∧ w.fog = (outValue s.vertex .oFog).x ∧
      w.tex0 = outValue s.vertex .oT0 ∧ w.tex1 = outValue s.vertex .oT1 ∧ w.tex2 = outValue s.vertex .oT2 ∧
      w.tex3 = outValue s.vertex .oT3

/-! ### Operands and text from the slot's own fields -/

/-- R55, R57 to R59, R82 to R90: what decoding operand A, B or C of a slot answers, from the slot's own fields: the fault of
class 0, else the register its class field names, its sign, and its four lane selectors, operand C's forced to its x
selector under a scalar-forcing ILU opcode. -/
def Obligations.OperandFromSlotFields : Prop :=
  ∀ (t : Slot) (x : OperandName),
    let field := fun (a b c : FieldName) => (F t (match x with | .a => a | .b => b | .c => c)).toNat
    let index : Nat :=
      match x with
      | .a => (F t .aR).toNat
      | .b => (F t .bR).toNat
      | .c => 4 * (F t .cRHigh).toNat + (F t .cRLow).toNat
    let mux := field .aMux .bMux .cMux
    let o := (readFields t).operand x
    let selX := field .aSwzX .bSwzX .cSwzX
    let forced : Prop := x = .c ∧ 2 ≤ (F t .ilu).toNat ∧ (F t .ilu).toNat ≤ 6
    (mux = 0 → decodeOperand (readFields t) x = .error (.invalidOperandClass x)) ∧
    (mux ≠ 0 → decodeOperand (readFields t) x = .ok o) ∧
    (mux = 1 → o.src = .temp (BitVec.ofNat 4 index)) ∧
    (mux = 2 → o.src = .attr (BitVec.ofNat 4 (F t .v).toNat)) ∧
    (mux = 3 → o.src = .const (remapConst (BitVec.ofNat 8 (F t .const).toNat)) (decide (F t .a0x = 1))) ∧
    (o.neg = true ↔ field .aNeg .bNeg .cNeg = 1) ∧
    o.swz.x.lane.val = selX ∧
    (forced → o.swz.y.lane.val = selX ∧ o.swz.z.lane.val = selX ∧ o.swz.w.lane.val = selX) ∧
    (¬forced → o.swz.y.lane.val = field .aSwzY .bSwzY .cSwzY ∧ o.swz.z.lane.val = field .aSwzZ .bSwzZ .cSwzZ ∧
      o.swz.w.lane.val = field .aSwzW .bSwzW .cSwzW)

/-- R69, R113, R114, R117: the operands a decoded slot's instructions consume, in A, B, C order, by the two opcode fields:
the MAC's by the usage table, the ILU's the shared operand C. -/
def Obligations.ConsumedOperandsInOrder : Prop :=
  ∀ (t : Slot) (d : SlotInstr), decodeSlot t = .ok d →
    let A := (readFields t).operand .a
    let B := (readFields t).operand .b
    let C := (readFields t).operand .c
    let mac := (F t .mac).toNat
    d.mac.args = (if mac = 0 then [] else if mac = 1 ∨ mac = 13 then [A] else if mac = 3 then [A, C]
      else if mac = 4 then [A, B, C] else [A, B]) ∧
    d.ilu.args = (if F t .ilu = 0 then [] else [C])

/-- R28, R60, R71, R84, R85, R87, R92, R109: the text of an operand, of a destination under its mask, and of a statement,
down to each character but those of the swizzle suffix (`SwizzleSuffix`). -/
def Obligations.StatementTextIsCanonical : Prop :=
  let letters : Mask → String := fun m =>
    ["", "w", "z", "zw", "y", "yw", "yz", "yzw", "x", "xw", "xz", "xzw", "xy", "xyw", "xyz", "xyzw"].getD m.toNat ""
  let name : BitVec 4 → String := fun j =>
    ["oPos", "???", "???", "oD0", "oD1", "oFog", "oPts", "oB0", "oB1", "oT0", "oT1", "oT2", "oT3", "???", "???",
      "???"].getD j.toNat ""
  (∀ (neg : Bool) (z : Swizzle),
    let sign := if neg then "-" else ""
    (∀ n, operandText ⟨.temp n, neg, z⟩ = sign ++ ("R" ++ Nat.repr n.toNat) ++ swizzleText z) ∧
    (∀ n, operandText ⟨.attr n, neg, z⟩ = sign ++ ("v" ++ Nat.repr n.toNat) ++ swizzleText z) ∧
    (∀ a, operandText ⟨.const a false, neg, z⟩ = sign ++ ("c[" ++ Nat.repr a.toNat ++ "]") ++ swizzleText z) ∧
    (∀ a, operandText ⟨.const a true, neg, z⟩ = sign ++ ("c[A0+" ++ Nat.repr a.toNat ++ "]") ++ swizzleText z)) ∧
  (∀ m : Mask,
    destText .addrA0 m = "A0" ∧
    (∀ n, destText (.vec (.reg n)) m = "R" ++ Nat.repr n.toNat ++ "." ++ letters m) ∧
    (∀ j, destText (.vec (.out (.named j))) m = name j ++ "." ++ letters m) ∧
    (∀ a, destText (.vec (.out (.const a))) m = "c[" ++ Nat.repr a.toNat ++ "]." ++ letters m)) ∧
  (∀ (u : UnitName) (op : String) (e : Dest) (m : Mask) (os : List Operand),
    stmtText ⟨u, op, e, m, os⟩ =
      "  " ++ op ++ "(" ++ destText e m ++ String.join (os.map (fun o => ", " ++ operandText o)) ++ ");\n")

/-- R125: the text of a slot: the trace comment with its index and its four raw words, each `0x` and eight upper-case
hexadecimal digits, then its statements' texts in order, then a blank line. -/
def Obligations.SlotTextIsCanonical : Prop :=
  let digit : Nat → String := fun n =>
    ["0", "1", "2", "3", "4", "5", "6", "7", "8", "9", "A", "B", "C", "D", "E", "F"].getD (n % 16) ""
  let hex : Word → String := fun w =>
    "0x" ++ digit (w.toNat / 2 ^ 28) ++ digit (w.toNat / 2 ^ 24) ++ digit (w.toNat / 2 ^ 20) ++ digit (w.toNat / 2 ^ 16)
      ++ digit (w.toNat / 2 ^ 12) ++ digit (w.toNat / 2 ^ 8) ++ digit (w.toNat / 2 ^ 4) ++ digit w.toNat
  ∀ r : SlotRecord,
    slotText r =
      "  /* Slot " ++ Nat.repr r.index ++ ": " ++ hex r.words.w0 ++ " " ++ hex r.words.w1 ++ " " ++ hex r.words.w2 ++ " "
        ++ hex r.words.w3 ++ " */\n" ++ String.join ((slotStmts r.code).map stmtText) ++ "\n"
end

