-- ==== Sys2Proof/Laws/Decode.lean ====
section
/-! SUPPORT. What the extractor reads, bit by bit (R78, R81), the place of every field (R52), and everything the instruction
decoder can answer (R113 to R120). -/

namespace Sys2Proof

/-! ### The extractor -/

/-- R78: the low mask of a length has exactly that many bits set. -/
theorem lowMask_getLsbD (len : Nat) (h : len ≤ 32) (i : Nat) : ((1#32 <<< len) - 1).getLsbD i = decide (i < len) := by
  have e : ((1#32 <<< len) - 1) = BitVec.ofNat 32 (2 ^ len - 1) := by
    apply BitVec.eq_of_toNat_eq
    rcases Nat.lt_or_ge len 32 with h1 | h1
    · have : 2 ^ len < 2 ^ 32 := Nat.pow_lt_pow_right (by omega) h1
      have : 0 < 2 ^ len := Nat.two_pow_pos len
      simp [BitVec.toNat_sub, BitVec.toNat_shiftLeft, Nat.shiftLeft_eq]
      omega
    · obtain rfl : len = 32 := by omega
      decide
  rw [e, BitVec.getLsbD_ofNat, Nat.testBit_two_pow_sub_one]
  by_cases h1 : i < len <;> simp [h1]
  omega

/-- R78: bit i of an extracted value is bit `lo + i` of the word, inside the length. -/
theorem extract_getLsbD (t : Slot) (w : Fin 4) (lo len : Nat) (h : len ≤ 32) (i : Nat) :
    (extract t w lo len).getLsbD i = (decide (i < len) && (t.word w).getLsbD (lo + i)) := by
  simp only [extract, BitVec.getLsbD_and, BitVec.getLsbD_ushiftRight, lowMask_getLsbD len h, Bool.and_comm]

/-- R80: every window of the table lies inside its word. -/
theorem descriptor_range (n : FieldName) : (descriptor n).lo + (descriptor n).len ≤ 32 := by
  cases n <;> decide

/-- R52: the windows of two fields do not overlap. -/
theorem descriptor_disjoint (n m : FieldName) (h : n ≠ m) : (descriptor n).word ≠ (descriptor m).word ∨
    (descriptor n).lo + (descriptor n).len ≤ (descriptor m).lo ∨
      (descriptor m).lo + (descriptor m).len ≤ (descriptor n).lo := by
  cases n <;> cases m <;> first | exact absurd rfl h | decide

/-- R78: a field's value is below 2 to its length. -/
theorem F_toNat_lt (t : Slot) (n : FieldName) : (F t n).toNat < 2 ^ (descriptor n).len := by
  have : ((1#32 <<< (descriptor n).len) - 1).toNat = 2 ^ (descriptor n).len - 1 := by cases n <;> decide
  rw [F, extract, BitVec.toNat_and, this, Nat.and_two_pow_sub_one_eq_mod]
  exact Nat.mod_lt _ (Nat.two_pow_pos _)

@[simp] theorem setWord_word (t : Slot) (k : Fin 4) (w : Word) : (t.setWord k w).word k = w := by
  match k with
  | 0 => rfl
  | 1 => rfl
  | 2 => rfl
  | 3 => rfl

theorem setWord_word_ne (t : Slot) (k j : Fin 4) (w : Word) (h : j ≠ k) : (t.setWord k w).word j = t.word j := by
  fin_cases k <;> fin_cases j <;> first | exact absurd rfl h | rfl

/-! ### The decoder -/

/-- R57, R88: an operand's class is one of R, V, C exactly where its class field is not 0. -/
theorem operand_wf (f : Fields) (x : OperandName) : (f.operand x).wf = decide (f.mux x ≠ 0) := by
  have key : ∀ b : BitVec 2, b = 0 ∨ b = 1 ∨ b = 2 ∨ b = 3 := by decide
  rcases key (f.mux x) with h | h | h | h <;> simp [Operand.wf, Fields.operand, Fields.source, h]

/-- R67, R72: the reserved MAC values are 14 and 15. -/
theorem macOp_ofBits_none (b : BitVec 4) : MacOp.ofBits b = none ↔ 13 < b.toNat := by
  revert b
  decide

theorem macOp_ofBits_code (op : MacOp) : MacOp.ofBits op.code = some op := by
  cases op <;> rfl

theorem macOp_code_of_ofBits (b : BitVec 4) (op : MacOp) : MacOp.ofBits b = some op → op.code = b := by
  revert b
  cases op <;> decide

theorem iluOp_code_ofBits (b : BitVec 3) : (IluOp.ofBits b).code = b := by
  revert b
  decide

/-- R113 to R120: everything the decoder can answer, in the fault order of R119. -/
theorem decodeFields_cases (f : Fields) :
    (f.cMux = 0 ∧ decodeFields f = .error (.invalidOperandClass .c)) ∨
    (f.cMux ≠ 0 ∧ MacOp.ofBits f.mac = none ∧ decodeFields f = .error (.reservedMacOpcode f.mac)) ∨
    (∃ op, f.cMux ≠ 0 ∧ MacOp.ofBits f.mac = some op ∧
      ((op.usesA = true ∧ f.aMux = 0 ∧ decodeFields f = .error (.invalidOperandClass .a)) ∨
       ((op.usesA = true → f.aMux ≠ 0) ∧ op.usesB = true ∧ f.bMux = 0 ∧
          decodeFields f = .error (.invalidOperandClass .b)) ∨
       ((op.usesA = true → f.aMux ≠ 0) ∧ (op.usesB = true → f.bMux ≠ 0) ∧
          decodeFields f = .ok ⟨macInstr op (f.operand .a) (f.operand .b) (f.operand .c) (f.out .mac),
            iluInstr (IluOp.ofBits f.ilu) (f.operand .c) (f.out .ilu), decide (f.final = 1)⟩))) := by
  have wa : (f.operand .a).wf = decide (f.aMux ≠ 0) := operand_wf f .a
  have wb : (f.operand .b).wf = decide (f.bMux ≠ 0) := operand_wf f .b
  have wc : (f.operand .c).wf = decide (f.cMux ≠ 0) := operand_wf f .c
  unfold decodeFields decodeOperand checkIfUsed
  by_cases hc : f.cMux = 0
  · exact .inl ⟨hc, by rw [wc]; simp [hc]⟩
  refine .inr ?_
  rw [wc, if_pos (by simpa using hc)]
  cases hm : MacOp.ofBits f.mac with
  | none => exact .inl ⟨hc, rfl, rfl⟩
  | some op =>
    refine .inr ⟨op, hc, rfl, ?_⟩
    by_cases ha : op.usesA = true ∧ f.aMux = 0
    · exact .inl ⟨ha.1, ha.2, by simp [wa, ha]⟩
    have na : (op.usesA && !(f.operand .a).wf) = false := by rw [wa]; cases h : op.usesA <;> simp_all
    by_cases hb : op.usesB = true ∧ f.bMux = 0
    · exact .inr (.inl ⟨by tauto, hb.1, hb.2, by simp [na, wb, hb]⟩)
    · have nb : (op.usesB && !(f.operand .b).wf) = false := by rw [wb]; cases h : op.usesB <;> simp_all
      exact .inr (.inr ⟨by tauto, by tauto, by simp [na, nb]⟩)

end Sys2Proof
end

