-- ==== Sys2Proof/Laws/State.lean ====
section
/-! SUPPORT. One lemma per field for each update of the state, so that no proof unfolds a record update. -/

namespace Sys2Proof.Machine

@[simp] theorem setVertex_program (s : State) (e : ExecState) : (s.setVertex e).program = s.program := rfl

@[simp] theorem setVertex_trans (s : State) (e : ExecState) : (s.setVertex e).trans = s.trans := rfl

@[simp] theorem setVertex_launch (s : State) (e : ExecState) : (s.setVertex e).launch = s.launch := rfl

@[simp] theorem setVertex_vertex (s : State) (e : ExecState) : (s.setVertex e).vertex = e := rfl

@[simp] theorem setVertex_params (s : State) (e : ExecState) : (s.setVertex e).params = s.params := rfl

@[simp] theorem setVertex_versionTag (s : State) (e : ExecState) : (s.setVertex e).versionTag = s.versionTag := rfl

@[simp] theorem setVertex_stage (s : State) (e : ExecState) : (s.setVertex e).stage = s.stage := rfl

@[simp] theorem setVertex_slot (s : State) (e : ExecState) : (s.setVertex e).slot = s.slot := rfl

@[simp] theorem setVertex_unit (s : State) (e : ExecState) : (s.setVertex e).unit = s.unit := rfl

@[simp] theorem setVertex_outputs (s : State) (e : ExecState) : (s.setVertex e).outputs = s.outputs := rfl

@[simp] theorem setVertex_draws (s : State) (e : ExecState) : (s.setVertex e).draws = s.draws := rfl

@[simp] theorem writeTemp_program (n : Fin 13) (m : Mask) (r : Vec4) (s : State) : (writeTemp n m r s).program = s.program := rfl

@[simp] theorem writeTemp_trans (n : Fin 13) (m : Mask) (r : Vec4) (s : State) : (writeTemp n m r s).trans = s.trans := rfl

@[simp] theorem writeTemp_launch (n : Fin 13) (m : Mask) (r : Vec4) (s : State) : (writeTemp n m r s).launch = s.launch := rfl

@[simp] theorem writeTemp_params (n : Fin 13) (m : Mask) (r : Vec4) (s : State) : (writeTemp n m r s).params = s.params := rfl

@[simp] theorem writeTemp_versionTag (n : Fin 13) (m : Mask) (r : Vec4) (s : State) : (writeTemp n m r s).versionTag = s.versionTag := rfl

@[simp] theorem writeTemp_stage (n : Fin 13) (m : Mask) (r : Vec4) (s : State) : (writeTemp n m r s).stage = s.stage := rfl

@[simp] theorem writeTemp_slot (n : Fin 13) (m : Mask) (r : Vec4) (s : State) : (writeTemp n m r s).slot = s.slot := rfl

@[simp] theorem writeTemp_unit (n : Fin 13) (m : Mask) (r : Vec4) (s : State) : (writeTemp n m r s).unit = s.unit := rfl

@[simp] theorem writeTemp_outputs (n : Fin 13) (m : Mask) (r : Vec4) (s : State) : (writeTemp n m r s).outputs = s.outputs := rfl

@[simp] theorem writeTemp_draws (n : Fin 13) (m : Mask) (r : Vec4) (s : State) : (writeTemp n m r s).draws = s.draws := rfl

@[simp] theorem writeTemp_vertex_temps (n : Fin 13) (m : Mask) (r : Vec4) (s : State) : (writeTemp n m r s).vertex.temps = s.vertex.temps.set n.val (mergeLanes s.params.partialLane m s.vertex.temps[n.val] r) := rfl

@[simp] theorem writeTemp_vertex_a0 (n : Fin 13) (m : Mask) (r : Vec4) (s : State) : (writeTemp n m r s).vertex.a0 = s.vertex.a0 := rfl

@[simp] theorem writeTemp_vertex_outs (n : Fin 13) (m : Mask) (r : Vec4) (s : State) : (writeTemp n m r s).vertex.outs = s.vertex.outs := rfl

@[simp] theorem writeTemp_vertex_consts (n : Fin 13) (m : Mask) (r : Vec4) (s : State) : (writeTemp n m r s).vertex.consts = s.vertex.consts := rfl

@[simp] theorem writeTemp_vertex_attrs (n : Fin 13) (m : Mask) (r : Vec4) (s : State) : (writeTemp n m r s).vertex.attrs = s.vertex.attrs := rfl

@[simp] theorem writeTemp_vertex_clip (n : Fin 13) (m : Mask) (r : Vec4) (s : State) : (writeTemp n m r s).vertex.clip = s.vertex.clip := rfl

@[simp] theorem writeTemp_vertex_fault (n : Fin 13) (m : Mask) (r : Vec4) (s : State) : (writeTemp n m r s).vertex.fault = s.vertex.fault := rfl

@[simp] theorem writeOut_program (o : OutReg) (m : Mask) (r : Vec4) (s : State) : (writeOut o m r s).program = s.program := rfl

@[simp] theorem writeOut_trans (o : OutReg) (m : Mask) (r : Vec4) (s : State) : (writeOut o m r s).trans = s.trans := rfl

@[simp] theorem writeOut_launch (o : OutReg) (m : Mask) (r : Vec4) (s : State) : (writeOut o m r s).launch = s.launch := rfl

@[simp] theorem writeOut_params (o : OutReg) (m : Mask) (r : Vec4) (s : State) : (writeOut o m r s).params = s.params := rfl

@[simp] theorem writeOut_versionTag (o : OutReg) (m : Mask) (r : Vec4) (s : State) : (writeOut o m r s).versionTag = s.versionTag := rfl

@[simp] theorem writeOut_stage (o : OutReg) (m : Mask) (r : Vec4) (s : State) : (writeOut o m r s).stage = s.stage := rfl

@[simp] theorem writeOut_slot (o : OutReg) (m : Mask) (r : Vec4) (s : State) : (writeOut o m r s).slot = s.slot := rfl

@[simp] theorem writeOut_unit (o : OutReg) (m : Mask) (r : Vec4) (s : State) : (writeOut o m r s).unit = s.unit := rfl

@[simp] theorem writeOut_outputs (o : OutReg) (m : Mask) (r : Vec4) (s : State) : (writeOut o m r s).outputs = s.outputs := rfl

@[simp] theorem writeOut_draws (o : OutReg) (m : Mask) (r : Vec4) (s : State) : (writeOut o m r s).draws = s.draws := rfl

@[simp] theorem writeOut_vertex_temps (o : OutReg) (m : Mask) (r : Vec4) (s : State) : (writeOut o m r s).vertex.temps = s.vertex.temps := rfl

@[simp] theorem writeOut_vertex_a0 (o : OutReg) (m : Mask) (r : Vec4) (s : State) : (writeOut o m r s).vertex.a0 = s.vertex.a0 := rfl

@[simp] theorem writeOut_vertex_outs (o : OutReg) (m : Mask) (r : Vec4) (s : State) : (writeOut o m r s).vertex.outs = s.vertex.outs.set o.index.val (mergeLanes s.params.partialLane m s.vertex.outs[o.index.val] r) := rfl

@[simp] theorem writeOut_vertex_consts (o : OutReg) (m : Mask) (r : Vec4) (s : State) : (writeOut o m r s).vertex.consts = s.vertex.consts := rfl

@[simp] theorem writeOut_vertex_attrs (o : OutReg) (m : Mask) (r : Vec4) (s : State) : (writeOut o m r s).vertex.attrs = s.vertex.attrs := rfl

@[simp] theorem writeOut_vertex_clip (o : OutReg) (m : Mask) (r : Vec4) (s : State) : (writeOut o m r s).vertex.clip = s.vertex.clip := rfl

@[simp] theorem writeOut_vertex_fault (o : OutReg) (m : Mask) (r : Vec4) (s : State) : (writeOut o m r s).vertex.fault = s.vertex.fault := rfl

@[simp] theorem writeConst_program (a : Fin 192) (m : Mask) (r : Vec4) (s : State) : (writeConst a m r s).program = s.program := rfl

@[simp] theorem writeConst_trans (a : Fin 192) (m : Mask) (r : Vec4) (s : State) : (writeConst a m r s).trans = s.trans := rfl

@[simp] theorem writeConst_launch (a : Fin 192) (m : Mask) (r : Vec4) (s : State) : (writeConst a m r s).launch = s.launch := rfl

@[simp] theorem writeConst_params (a : Fin 192) (m : Mask) (r : Vec4) (s : State) : (writeConst a m r s).params = s.params := rfl

@[simp] theorem writeConst_versionTag (a : Fin 192) (m : Mask) (r : Vec4) (s : State) : (writeConst a m r s).versionTag = s.versionTag := rfl

@[simp] theorem writeConst_stage (a : Fin 192) (m : Mask) (r : Vec4) (s : State) : (writeConst a m r s).stage = s.stage := rfl

@[simp] theorem writeConst_slot (a : Fin 192) (m : Mask) (r : Vec4) (s : State) : (writeConst a m r s).slot = s.slot := rfl

@[simp] theorem writeConst_unit (a : Fin 192) (m : Mask) (r : Vec4) (s : State) : (writeConst a m r s).unit = s.unit := rfl

@[simp] theorem writeConst_outputs (a : Fin 192) (m : Mask) (r : Vec4) (s : State) : (writeConst a m r s).outputs = s.outputs := rfl

@[simp] theorem writeConst_draws (a : Fin 192) (m : Mask) (r : Vec4) (s : State) : (writeConst a m r s).draws = s.draws := rfl

@[simp] theorem writeConst_vertex_temps (a : Fin 192) (m : Mask) (r : Vec4) (s : State) : (writeConst a m r s).vertex.temps = s.vertex.temps := rfl

@[simp] theorem writeConst_vertex_a0 (a : Fin 192) (m : Mask) (r : Vec4) (s : State) : (writeConst a m r s).vertex.a0 = s.vertex.a0 := rfl

@[simp] theorem writeConst_vertex_outs (a : Fin 192) (m : Mask) (r : Vec4) (s : State) : (writeConst a m r s).vertex.outs = s.vertex.outs := rfl

@[simp] theorem writeConst_vertex_consts (a : Fin 192) (m : Mask) (r : Vec4) (s : State) : (writeConst a m r s).vertex.consts = s.vertex.consts.set a.val (mergeLanes s.params.partialLane m s.vertex.consts[a.val] r) := rfl

@[simp] theorem writeConst_vertex_attrs (a : Fin 192) (m : Mask) (r : Vec4) (s : State) : (writeConst a m r s).vertex.attrs = s.vertex.attrs := rfl

@[simp] theorem writeConst_vertex_clip (a : Fin 192) (m : Mask) (r : Vec4) (s : State) : (writeConst a m r s).vertex.clip = s.vertex.clip := rfl

@[simp] theorem writeConst_vertex_fault (a : Fin 192) (m : Mask) (r : Vec4) (s : State) : (writeConst a m r s).vertex.fault = s.vertex.fault := rfl

@[simp] theorem writeA0_program (v : BitVec 32) (s : State) : (writeA0 v s).program = s.program := rfl

@[simp] theorem writeA0_trans (v : BitVec 32) (s : State) : (writeA0 v s).trans = s.trans := rfl

@[simp] theorem writeA0_launch (v : BitVec 32) (s : State) : (writeA0 v s).launch = s.launch := rfl

@[simp] theorem writeA0_params (v : BitVec 32) (s : State) : (writeA0 v s).params = s.params := rfl

@[simp] theorem writeA0_versionTag (v : BitVec 32) (s : State) : (writeA0 v s).versionTag = s.versionTag := rfl

@[simp] theorem writeA0_stage (v : BitVec 32) (s : State) : (writeA0 v s).stage = s.stage := rfl

@[simp] theorem writeA0_slot (v : BitVec 32) (s : State) : (writeA0 v s).slot = s.slot := rfl

@[simp] theorem writeA0_unit (v : BitVec 32) (s : State) : (writeA0 v s).unit = s.unit := rfl

@[simp] theorem writeA0_outputs (v : BitVec 32) (s : State) : (writeA0 v s).outputs = s.outputs := rfl

@[simp] theorem writeA0_draws (v : BitVec 32) (s : State) : (writeA0 v s).draws = s.draws := rfl

@[simp] theorem writeA0_vertex_temps (v : BitVec 32) (s : State) : (writeA0 v s).vertex.temps = s.vertex.temps := rfl

@[simp] theorem writeA0_vertex_a0 (v : BitVec 32) (s : State) : (writeA0 v s).vertex.a0 = v := rfl

@[simp] theorem writeA0_vertex_outs (v : BitVec 32) (s : State) : (writeA0 v s).vertex.outs = s.vertex.outs := rfl

@[simp] theorem writeA0_vertex_consts (v : BitVec 32) (s : State) : (writeA0 v s).vertex.consts = s.vertex.consts := rfl

@[simp] theorem writeA0_vertex_attrs (v : BitVec 32) (s : State) : (writeA0 v s).vertex.attrs = s.vertex.attrs := rfl

@[simp] theorem writeA0_vertex_clip (v : BitVec 32) (s : State) : (writeA0 v s).vertex.clip = s.vertex.clip := rfl

@[simp] theorem writeA0_vertex_fault (v : BitVec 32) (s : State) : (writeA0 v s).vertex.fault = s.vertex.fault := rfl

@[simp] theorem loadA0_program (x : Lane) (s : State) : (loadA0 x s).program = s.program := rfl

@[simp] theorem loadA0_trans (x : Lane) (s : State) : (loadA0 x s).trans = s.trans := rfl

@[simp] theorem loadA0_launch (x : Lane) (s : State) : (loadA0 x s).launch = s.launch := rfl

@[simp] theorem loadA0_params (x : Lane) (s : State) : (loadA0 x s).params = s.params := rfl

@[simp] theorem loadA0_versionTag (x : Lane) (s : State) : (loadA0 x s).versionTag = s.versionTag := rfl

@[simp] theorem loadA0_stage (x : Lane) (s : State) : (loadA0 x s).stage = s.stage := rfl

@[simp] theorem loadA0_slot (x : Lane) (s : State) : (loadA0 x s).slot = s.slot := rfl

@[simp] theorem loadA0_unit (x : Lane) (s : State) : (loadA0 x s).unit = s.unit := rfl

@[simp] theorem loadA0_outputs (x : Lane) (s : State) : (loadA0 x s).outputs = s.outputs := rfl

@[simp] theorem loadA0_draws (x : Lane) (s : State) : (loadA0 x s).draws = s.draws + 1 := rfl

@[simp] theorem loadA0_vertex_temps (x : Lane) (s : State) : (loadA0 x s).vertex.temps = s.vertex.temps := rfl

@[simp] theorem loadA0_vertex_a0 (x : Lane) (s : State) : (loadA0 x s).vertex.a0 = arlResult Config.fp (Config.arlDraw s.draws) x := rfl

@[simp] theorem loadA0_vertex_outs (x : Lane) (s : State) : (loadA0 x s).vertex.outs = s.vertex.outs := rfl

@[simp] theorem loadA0_vertex_consts (x : Lane) (s : State) : (loadA0 x s).vertex.consts = s.vertex.consts := rfl

@[simp] theorem loadA0_vertex_attrs (x : Lane) (s : State) : (loadA0 x s).vertex.attrs = s.vertex.attrs := rfl

@[simp] theorem loadA0_vertex_clip (x : Lane) (s : State) : (loadA0 x s).vertex.clip = s.vertex.clip := rfl

@[simp] theorem loadA0_vertex_fault (x : Lane) (s : State) : (loadA0 x s).vertex.fault = s.vertex.fault := rfl

@[simp] theorem takeExecutionFault_program (f : Fault) (s : State) : (takeExecutionFault f s).program = s.program := rfl

@[simp] theorem takeExecutionFault_trans (f : Fault) (s : State) : (takeExecutionFault f s).trans = s.trans := rfl

@[simp] theorem takeExecutionFault_launch (f : Fault) (s : State) : (takeExecutionFault f s).launch = s.launch := rfl

@[simp] theorem takeExecutionFault_params (f : Fault) (s : State) : (takeExecutionFault f s).params = s.params := rfl

@[simp] theorem takeExecutionFault_versionTag (f : Fault) (s : State) : (takeExecutionFault f s).versionTag = s.versionTag := rfl

@[simp] theorem takeExecutionFault_stage (f : Fault) (s : State) : (takeExecutionFault f s).stage = .ended := rfl

@[simp] theorem takeExecutionFault_slot (f : Fault) (s : State) : (takeExecutionFault f s).slot = s.slot := rfl

@[simp] theorem takeExecutionFault_unit (f : Fault) (s : State) : (takeExecutionFault f s).unit = s.unit := rfl

@[simp] theorem takeExecutionFault_outputs (f : Fault) (s : State) : (takeExecutionFault f s).outputs = s.outputs := rfl

@[simp] theorem takeExecutionFault_draws (f : Fault) (s : State) : (takeExecutionFault f s).draws = s.draws := rfl

@[simp] theorem takeExecutionFault_vertex_temps (f : Fault) (s : State) : (takeExecutionFault f s).vertex.temps = s.vertex.temps := rfl

@[simp] theorem takeExecutionFault_vertex_a0 (f : Fault) (s : State) : (takeExecutionFault f s).vertex.a0 = s.vertex.a0 := rfl

@[simp] theorem takeExecutionFault_vertex_outs (f : Fault) (s : State) : (takeExecutionFault f s).vertex.outs = s.vertex.outs := rfl

@[simp] theorem takeExecutionFault_vertex_consts (f : Fault) (s : State) : (takeExecutionFault f s).vertex.consts = s.vertex.consts := rfl

@[simp] theorem takeExecutionFault_vertex_attrs (f : Fault) (s : State) : (takeExecutionFault f s).vertex.attrs = s.vertex.attrs := rfl

@[simp] theorem takeExecutionFault_vertex_clip (f : Fault) (s : State) : (takeExecutionFault f s).vertex.clip = s.vertex.clip := rfl

@[simp] theorem takeExecutionFault_vertex_fault (f : Fault) (s : State) : (takeExecutionFault f s).vertex.fault = some f := rfl

@[simp] theorem takeTranslationFault_program (f : Fault) (s : State) : (takeTranslationFault f s).program = s.program := rfl

@[simp] theorem takeTranslationFault_launch (f : Fault) (s : State) : (takeTranslationFault f s).launch = s.launch := rfl

@[simp] theorem takeTranslationFault_vertex (f : Fault) (s : State) : (takeTranslationFault f s).vertex = s.vertex := rfl

@[simp] theorem takeTranslationFault_params (f : Fault) (s : State) : (takeTranslationFault f s).params = s.params := rfl

@[simp] theorem takeTranslationFault_versionTag (f : Fault) (s : State) : (takeTranslationFault f s).versionTag = s.versionTag := rfl

@[simp] theorem takeTranslationFault_stage (f : Fault) (s : State) : (takeTranslationFault f s).stage = .ended := rfl

@[simp] theorem takeTranslationFault_slot (f : Fault) (s : State) : (takeTranslationFault f s).slot = s.slot := rfl

@[simp] theorem takeTranslationFault_unit (f : Fault) (s : State) : (takeTranslationFault f s).unit = s.unit := rfl

@[simp] theorem takeTranslationFault_outputs (f : Fault) (s : State) : (takeTranslationFault f s).outputs = s.outputs := rfl

@[simp] theorem takeTranslationFault_draws (f : Fault) (s : State) : (takeTranslationFault f s).draws = s.draws := rfl

@[simp] theorem takeTranslationFault_trans_mode (f : Fault) (s : State) : (takeTranslationFault f s).trans.mode = .fault := rfl

@[simp] theorem takeTranslationFault_trans_k (f : Fault) (s : State) : (takeTranslationFault f s).trans.k = s.trans.k := rfl

@[simp] theorem takeTranslationFault_trans_body (f : Fault) (s : State) : (takeTranslationFault f s).trans.body = [] := rfl

@[simp] theorem takeTranslationFault_trans_fault (f : Fault) (s : State) : (takeTranslationFault f s).trans.fault = some f := rfl

@[simp] theorem startTranslation_program (P : List Slot) (tag : Word) (s : State) : (startTranslation P tag s).program = P := rfl

@[simp] theorem startTranslation_trans (P : List Slot) (tag : Word) (s : State) : (startTranslation P tag s).trans = .initial := rfl

@[simp] theorem startTranslation_launch (P : List Slot) (tag : Word) (s : State) : (startTranslation P tag s).launch = s.launch := rfl

@[simp] theorem startTranslation_vertex (P : List Slot) (tag : Word) (s : State) : (startTranslation P tag s).vertex = s.vertex := rfl

@[simp] theorem startTranslation_params (P : List Slot) (tag : Word) (s : State) : (startTranslation P tag s).params = s.params := rfl

@[simp] theorem startTranslation_versionTag (P : List Slot) (tag : Word) (s : State) : (startTranslation P tag s).versionTag = tag := rfl

@[simp] theorem startTranslation_stage (P : List Slot) (tag : Word) (s : State) : (startTranslation P tag s).stage = .translating := rfl

@[simp] theorem startTranslation_slot (P : List Slot) (tag : Word) (s : State) : (startTranslation P tag s).slot = 0 := rfl

@[simp] theorem startTranslation_unit (P : List Slot) (tag : Word) (s : State) : (startTranslation P tag s).unit = .mac := rfl

@[simp] theorem startTranslation_outputs (P : List Slot) (tag : Word) (s : State) : (startTranslation P tag s).outputs = none := rfl

@[simp] theorem startTranslation_draws (P : List Slot) (tag : Word) (s : State) : (startTranslation P tag s).draws = s.draws := rfl

@[simp] theorem supply_program (L : Launch) (s : State) : (supply L s).program = s.program := rfl

@[simp] theorem supply_trans (L : Launch) (s : State) : (supply L s).trans = s.trans := rfl

@[simp] theorem supply_launch (L : Launch) (s : State) : (supply L s).launch = L := rfl

@[simp] theorem supply_vertex (L : Launch) (s : State) : (supply L s).vertex = s.vertex := rfl

@[simp] theorem supply_params (L : Launch) (s : State) : (supply L s).params = s.params := rfl

@[simp] theorem supply_versionTag (L : Launch) (s : State) : (supply L s).versionTag = s.versionTag := rfl

@[simp] theorem supply_stage (L : Launch) (s : State) : (supply L s).stage = s.stage := rfl

@[simp] theorem supply_slot (L : Launch) (s : State) : (supply L s).slot = s.slot := rfl

@[simp] theorem supply_unit (L : Launch) (s : State) : (supply L s).unit = s.unit := rfl

@[simp] theorem supply_outputs (L : Launch) (s : State) : (supply L s).outputs = s.outputs := rfl

@[simp] theorem supply_draws (L : Launch) (s : State) : (supply L s).draws = s.draws := rfl

end Sys2Proof.Machine
end

