-- ==== Sys2Proof/Laws/Ops.lean ====
section
/-! SUPPORT. What each shared operation of the machine can do, said once: register reads and writes, the masked write,
operand values, a unit's statements, and the outcome of an instruction. -/

namespace Sys2Proof.Machine

/-! ### Lanes -/

theorem vec4_get_ext {a b : Vec4} (h : ∀ i, a.get i = b.get i) : a = b := by
  have h0 := h 0
  have h1 := h 1
  have h2 := h 2
  have h3 := h 3
  cases a
  cases b
  simp_all [Vec4.get]

@[simp] theorem build_get (f : Fin 4 → Lane) (i : Fin 4) : (Vec4.build f).get i = f i := by
  match i with
  | 0 => rfl
  | 1 => rfl
  | 2 => rfl
  | 3 => rfl

/-- R111: a lane of the masked write. -/
@[simp] theorem mergeLanes_get (mode : PartialLaneMode) (m : Mask) (old r : Vec4) (i : Fin 4) :
    (mergeLanes mode m old r).get i = if enabled m i then r.get (sourceLane mode m i) else old.get i := by
  simp [mergeLanes]

/-- R60: a mask of 0 writes nothing. -/
@[simp] theorem mergeLanes_zero (mode : PartialLaneMode) (old r : Vec4) : mergeLanes mode 0 old r = old :=
  vec4_get_ext (by simp [enabled])

/-! ### Reads -/

/-- R94: a temporary's read answers the register of that number, and faults at R13 to R15. -/
theorem readTemp_eq (s : State) (n : BitVec 4) :
    (∃ h : n.toNat < 13, readTemp s n = .ok s.vertex.temps[n.toNat]) ∨
      (12 < n.toNat ∧ readTemp s n = .error (.undeclaredRegister s.slot n)) := by
  unfold readTemp
  split
  · exact .inl ⟨‹_›, rfl⟩
  · exact .inr ⟨by omega, rfl⟩

/-- R94: a static constant read answers the constant of that address, and faults at 192 and above. -/
theorem readConst_eq (s : State) (a : BitVec 8) :
    (∃ h : a.toNat < 192, readConst s a = .ok s.vertex.consts[a.toNat]) ∨
      (191 < a.toNat ∧ readConst s a = .error (.constantIndexOutOfRange s.slot a)) := by
  unfold readConst
  split
  · exact .inl ⟨‹_›, rfl⟩
  · exact .inr ⟨by omega, rfl⟩

/-- R95: a relative constant read answers the constant at `A0 + addr`, and faults outside [0,191]. -/
theorem readRelConst_eq (s : State) (a : BitVec 8) :
    (∃ h : 0 ≤ relIndex s a ∧ (relIndex s a).toNat < 192,
        readRelConst s a = .ok s.vertex.consts[(relIndex s a).toNat]) ∨
      (¬(0 ≤ relIndex s a ∧ relIndex s a ≤ 191) ∧
        readRelConst s a = .error (.relativeIndexOutOfRange s.slot (relIndex s a))) := by
  unfold readRelConst
  split
  · exact .inl ⟨‹_›, rfl⟩
  · exact .inr ⟨by omega, rfl⟩

/-- R94: an operand in range has a value. -/
theorem evalOperand_of_readable {s : State} {o : Operand} (h : Readable s o) : ∃ v, evalOperand s o = .ok v := by
  obtain ⟨src, neg, swz⟩ := o
  unfold evalOperand
  cases src with
  | temp n =>
    obtain ⟨_, e⟩ | ⟨h', _⟩ := readTemp_eq s n
    · simp [readSource, e]
    · simp [Readable] at h
      omega
  | attr n => simp [readSource]
  | const a rel =>
    cases rel with
    | false =>
      obtain ⟨_, e⟩ | ⟨h', _⟩ := readConst_eq s a
      · simp [readSource, e]
      · simp [Readable] at h
        omega
    | true =>
      obtain ⟨_, e⟩ | ⟨h', _⟩ := readRelConst_eq s a
      · simp [readSource, e]
      · simp only [Readable] at h
        exact absurd h h'
  | invalid x => exact absurd h (by simp [Readable])

/-- R94, R175: an operand out of range has its fault instead. -/
theorem evalOperand_of_readFaults {s : State} {o : Operand} {f : Fault} (h : ReadFaults s o f) :
    evalOperand s o = .error f := by
  obtain ⟨src, neg, swz⟩ := o
  unfold evalOperand
  cases src with
  | temp n =>
    obtain ⟨h1, rfl⟩ := h
    obtain ⟨h2, _⟩ | ⟨_, e⟩ := readTemp_eq s n
    · omega
    · simp [readSource, e]
  | attr n => exact absurd h (by simp [ReadFaults])
  | const a rel =>
    cases rel with
    | false =>
      obtain ⟨h1, rfl⟩ := h
      obtain ⟨h2, _⟩ | ⟨_, e⟩ := readConst_eq s a
      · omega
      · simp [readSource, e]
    | true =>
      obtain ⟨h1, rfl⟩ := h
      obtain ⟨h2, _⟩ | ⟨_, e⟩ := readRelConst_eq s a
      · simp only [relIndex] at h2
        omega
      · simp [readSource, e, relIndex]
  | invalid x =>
    simp only [ReadFaults] at h
    simp [readSource, h]

/-- R94: an operand is in range or has a read fault. -/
theorem readable_or_readFaults (s : State) (o : Operand) : Readable s o ∨ ∃ f, ReadFaults s o f := by
  obtain ⟨src, neg, swz⟩ := o
  cases src with
  | temp n => by_cases h : n.toNat ≤ 12 <;> simp [Readable, ReadFaults] <;> omega
  | attr n => exact .inl trivial
  | const a rel =>
    cases rel with
    | false => by_cases h : a.toNat ≤ 191 <;> simp [Readable, ReadFaults] <;> omega
    | true => simp only [Readable, ReadFaults, exists_and_left, exists_eq, and_true]; omega
  | invalid x => exact .inr ⟨_, rfl⟩

/-- Whether an operand is in range depends on A0 alone. -/
theorem readable_of_a0 {s t : State} {o : Operand} (h : t.vertex.a0 = s.vertex.a0) (ho : Readable s o) :
    Readable t o := by
  unfold Readable at *
  split <;> simp_all

/-! ### Writes -/

theorem writeTemp_wrote_reg (n : BitVec 4) (h : n.toNat < 13) (m : Mask) (r : Vec4) (s : State) :
    Wrote (.reg n) m r s (writeTemp ⟨n.toNat, h⟩ m r s) := by
  refine ⟨by simp [SameRun], rfl, rfl, rfl, rfl, rfl, fun k => ?_, fun o => ?_, fun a => ?_⟩
  · by_cases hk : n.toNat = k.val
    · simp [VecDest.isTemp, hk]
    · simp [VecDest.isTemp, hk]
  · simp [VecDest.isOut, outValue]
  · simp [VecDest.isConst]

theorem writeTemp_wrote_oPos {j : BitVec 4} (h : namedOutput j = some .oPos) (m : Mask) (r : Vec4) (s : State) :
    Wrote (.out (.named j)) m r s (writeTemp 12 m r s) := by
  have hj : j = 0#4 := by
    revert h
    revert j
    decide
  refine ⟨by simp [SameRun], rfl, rfl, rfl, rfl, rfl, fun k => ?_, fun o => ?_, fun a => ?_⟩
  · by_cases hk : k = 12
    · subst hk
      simp [VecDest.isTemp, hj]
    · have h' : ¬(12 = k.val) := by omega
      simp [VecDest.isTemp, hk, h']
  · simp [VecDest.isOut, outValue, h]
  · simp [VecDest.isConst]

theorem outIndex_injective {o p : OutReg} (h : o.index.val = p.index.val) : o = p := by
  cases o <;> cases p <;> first | rfl | exact absurd h (by decide)

theorem writeOut_wrote {j : BitVec 4} {o : OutReg} (h : namedOutput j = some (.further o)) (m : Mask) (r : Vec4)
    (s : State) : Wrote (.out (.named j)) m r s (writeOut o m r s) := by
  have hj : ¬j = 0#4 := by
    rintro rfl
    exact absurd h (by simp [namedOutput])
  refine ⟨by simp [SameRun], rfl, rfl, rfl, rfl, rfl, fun k => ?_, fun p => ?_, fun a => ?_⟩
  · simp [VecDest.isTemp, hj]
  · by_cases hp : o = p
    · subst hp
      simp [VecDest.isOut, outValue, h]
    · have h' : ¬(o.index.val = p.index.val) := fun e => hp (outIndex_injective e)
      simp [VecDest.isOut, outValue, h, hp, h']
  · simp [VecDest.isConst]

theorem writeConst_wrote (a : BitVec 8) (h : a.toNat < 192) (m : Mask) (r : Vec4) (s : State) :
    Wrote (.out (.const a)) m r s (writeConst ⟨a.toNat, h⟩ m r s) := by
  refine ⟨by simp [SameRun], rfl, rfl, rfl, rfl, rfl, fun k => ?_, fun o => ?_, fun b => ?_⟩
  · simp [VecDest.isTemp]
  · simp [VecDest.isOut, outValue]
  · by_cases hb : a.toNat = b.val
    · simp [VecDest.isConst, hb]
    · simp [VecDest.isConst, hb]

/-- R71: the placeholders of the named-output table are 1, 2, 13, 14 and 15. -/
theorem namedOutput_none_iff (j : BitVec 4) :
    namedOutput j = none ↔ j = 1 ∨ j = 2 ∨ j = 13 ∨ j = 14 ∨ j = 15 := by
  revert j
  decide

/-- R111, R172: a destination write answers the written state where the destination names a register, else the
destination's fault. -/
theorem writeDest_eq (d : VecDest) (m : Mask) (r : Vec4) (s : State) :
    (d.writable ∧ ∃ t, writeDest d m r s = .ok t ∧ Wrote d m r s t) ∨
      (¬d.writable ∧ writeDest d m r s = .error (destFault s.slot d)) := by
  match d with
  | .reg n =>
    by_cases h : n.toNat < 13
    · exact .inl ⟨by simp [VecDest.writable]; omega, _, by simp [writeDest, writeReg, h], writeTemp_wrote_reg n h m r s⟩
    · exact .inr ⟨by simp [VecDest.writable]; omega, by simp [writeDest, writeReg, h, destFault]⟩
  | .out (.const a) =>
    by_cases h : a.toNat < 192
    · exact .inl ⟨by simp [VecDest.writable]; omega, _, by simp [writeDest, writeConstBank, h], writeConst_wrote a h m r s⟩
    · exact .inr ⟨by simp [VecDest.writable]; omega, by simp [writeDest, writeConstBank, h, destFault]⟩
  | .out (.named j) =>
    have hw := namedOutput_none_iff j
    cases hj : namedOutput j with
    | none =>
      refine .inr ⟨?_, by simp [writeDest, writeNamed, hj, destFault]⟩
      have := hw.1 hj
      simp only [VecDest.writable]
      tauto
    | some x =>
      have hn : (VecDest.out (.named j)).writable := by
        have : ¬namedOutput j = none := by simp [hj]
        simp only [VecDest.writable]
        tauto
      cases x with
      | oPos =>
        exact .inl ⟨hn, _, by simp [writeDest, writeNamed, hj], writeTemp_wrote_oPos hj m r s⟩
      | further o => exact .inl ⟨hn, _, by simp [writeDest, writeNamed, hj], writeOut_wrote hj m r s⟩

/-! ### Statements -/

/-- R111, R112, R172: what one statement can do. -/
theorem runStmt_cases (value : Calc) (d : VecDest) (m : Mask) (s : State) :
    (∃ r t, value s = .ok r ∧ d.writable ∧ runStmt value d m s = .ok t ∧ Wrote d m r s t) ∨
      (∃ r, value s = .ok r ∧ ¬d.writable ∧ runStmt value d m s = .error (destFault s.slot d, s)) ∨
      (∃ f, value s = .error f ∧ runStmt value d m s = .error (f, s)) := by
  unfold runStmt
  cases hv : value s with
  | error f => exact .inr (.inr ⟨f, rfl, rfl⟩)
  | ok r =>
    obtain ⟨hd, t, ht, hw⟩ | ⟨hd, ht⟩ := writeDest_eq d m r s
    · exact .inl ⟨r, t, rfl, hd, by simp [ht], hw⟩
    · exact .inr (.inl ⟨r, rfl, hd, by simp [ht]⟩)

/-- R97, R108: a unit's statements over readable values and writable destinations run to their end. -/
theorem runStmts_ok {value : Calc} {rel : State → Vec4 → Prop} {good : State → Prop}
    (hval : ∀ s, good s → ∃ r, value s = .ok r ∧ rel s r)
    (hkeep : ∀ s t, good s → t.vertex.a0 = s.vertex.a0 → good t) :
    ∀ (ws : List (VecDest × Mask)) (s : State), good s → (∀ w ∈ ws, w.1.writable) →
      ∃ t, runStmts value ws s = .ok t ∧ Runs rel ws s t
  | [], s, _, _ => ⟨s, rfl, rfl⟩
  | w :: ws, s, hs, hd => by
    obtain ⟨r, hr, hrel⟩ := hval s hs
    obtain ⟨r', u, hr', -, hu, hw⟩ | ⟨_, _, hn, _⟩ | ⟨f, hf, _⟩ := runStmt_cases value w.1 w.2 s
    · rw [hr] at hr'
      cases hr'
      obtain ⟨t, ht, hrest⟩ := runStmts_ok hval hkeep ws u (hkeep s u hs hw.2.2.1)
        (fun x hx => hd x (List.mem_cons_of_mem _ hx))
      exact ⟨t, by simp [runStmts, hu, ht], r, u, hrel, hw, hrest⟩
    · exact absurd (hd w List.mem_cons_self) hn
    · rw [hr] at hf
      cases hf

end Sys2Proof.Machine
end

