-- ==== Sys2Proof/Laws/Exec.lean ====
section
/-! SUPPORT. What an instruction can do, said once: the one form of every vector instruction, ARL's, the reads of its
operands in list order, and what every list of statements leaves unchanged. -/

namespace Sys2Proof.Machine

/-- A value that needs the operands `os`: it is there where they can be read, else the first one's fault is (R175). -/
def ReadsInOrder (value : Calc) (os : List Operand) : Prop :=
  (∀ s, (∀ o ∈ os, Readable s o) → ∃ r, value s = .ok r) ∧
  (∀ s pre o post f, os = pre ++ o :: post → (∀ p ∈ pre, Readable s p) → ReadFaults s o f → value s = .error f)

theorem readsInOrder_calc1 (f : Vec4 → Vec4) (a : Operand) : ReadsInOrder (calc1 f a) [a] := by
  refine ⟨fun s h => ?_, fun s pre o post e h _ he => ?_⟩
  · obtain ⟨v, hv⟩ := evalOperand_of_readable (h a (by simp))
    exact ⟨f v, by simp [calc1, hv]⟩
  · match pre, h with
    | [], h =>
      obtain ⟨rfl, -⟩ : a = o ∧ _ := by simpa using h
      simp [calc1, evalOperand_of_readFaults he]
    | _ :: _, h => simp at h

theorem readsInOrder_calc2 (f : Vec4 → Vec4 → Vec4) (a b : Operand) : ReadsInOrder (calc2 f a b) [a, b] := by
  refine ⟨fun s h => ?_, fun s pre o post e h hp he => ?_⟩
  · obtain ⟨v, hv⟩ := evalOperand_of_readable (h a (by simp))
    obtain ⟨w, hw⟩ := evalOperand_of_readable (h b (by simp))
    exact ⟨f v w, by simp [calc2, hv, hw]⟩
  · match pre, h with
    | [], h =>
      obtain ⟨rfl, -⟩ : a = o ∧ _ := by simpa using h
      simp [calc2, evalOperand_of_readFaults he]
    | [p], h =>
      obtain ⟨rfl, rfl, -⟩ : a = p ∧ b = o ∧ _ := by simpa using h
      obtain ⟨v, hv⟩ := evalOperand_of_readable (hp a (by simp))
      simp [calc2, hv, evalOperand_of_readFaults he]
    | _ :: _ :: _, h => simp at h

theorem readsInOrder_calc3 (f : Vec4 → Vec4 → Vec4 → Vec4) (a b c : Operand) :
    ReadsInOrder (calc3 f a b c) [a, b, c] := by
  refine ⟨fun s h => ?_, fun s pre o post e h hp he => ?_⟩
  · obtain ⟨v, hv⟩ := evalOperand_of_readable (h a (by simp))
    obtain ⟨w, hw⟩ := evalOperand_of_readable (h b (by simp))
    obtain ⟨x, hx⟩ := evalOperand_of_readable (h c (by simp))
    exact ⟨f v w x, by simp [calc3, hv, hw, hx]⟩
  · match pre, h with
    | [], h =>
      obtain ⟨rfl, -⟩ : a = o ∧ _ := by simpa using h
      simp [calc3, evalOperand_of_readFaults he]
    | [p], h =>
      obtain ⟨rfl, rfl, -⟩ : a = p ∧ b = o ∧ _ := by simpa using h
      obtain ⟨v, hv⟩ := evalOperand_of_readable (hp a (by simp))
      simp [calc3, hv, evalOperand_of_readFaults he]
    | [p, q], h =>
      obtain ⟨rfl, rfl, rfl, -⟩ : a = p ∧ b = q ∧ c = o ∧ _ := by simpa using h
      obtain ⟨v, hv⟩ := evalOperand_of_readable (hp a (by simp))
      obtain ⟨w, hw⟩ := evalOperand_of_readable (hp b (by simp))
      simp [calc3, hv, hw, evalOperand_of_readFaults he]
    | _ :: _ :: _ :: _, h => simp at h

theorem readsInOrder_nil (r : Vec4) : ReadsInOrder (fun _ => .ok r) [] :=
  ⟨fun _ _ => ⟨r, rfl⟩, fun s pre o post f h => by simp at h⟩

/-- R108, R137, R152: every instruction but ARL runs the statements of `vecWrites`, each with one value read from its
operand list; the same value without its named-output stage. -/
theorem exec_vector (i : Instr) (h : i.macOp ≠ some .arl) :
    ∃ value : Calc, ReadsInOrder value i.args ∧
      (∀ s, exec i s = finish (runStmts value (vecWrites i) s)) ∧
      (∀ s, exec (withoutNamed i) s = finish (runStmts value (vecWrites (withoutNamed i)) s)) := by
  cases i with
  | macNop => exact ⟨_, readsInOrder_nil default, fun _ => rfl, fun _ => rfl⟩
  | macMov a o => exact ⟨_, readsInOrder_calc1 movResult a, fun _ => rfl, fun _ => rfl⟩
  | macMul a b o => exact ⟨_, readsInOrder_calc2 (mulResult Config.fp) a b, fun _ => rfl, fun _ => rfl⟩
  | macAdd a c o => exact ⟨_, readsInOrder_calc2 (addResult Config.fp) a c, fun _ => rfl, fun _ => rfl⟩
  | macMad a b c o => exact ⟨_, readsInOrder_calc3 (madResult Config.fp) a b c, fun _ => rfl, fun _ => rfl⟩
  | macDp3 a b o => exact ⟨_, readsInOrder_calc2 (dp3Result Config.fp) a b, fun _ => rfl, fun _ => rfl⟩
  | macDph a b o => exact ⟨_, readsInOrder_calc2 (dphResult Config.fp) a b, fun _ => rfl, fun _ => rfl⟩
  | macDp4 a b o => exact ⟨_, readsInOrder_calc2 (dp4Result Config.fp) a b, fun _ => rfl, fun _ => rfl⟩
  | macDst a b o => exact ⟨_, readsInOrder_calc2 (dstResult Config.fp) a b, fun _ => rfl, fun _ => rfl⟩
  | macMin a b o => exact ⟨_, readsInOrder_calc2 (minResult Config.fp) a b, fun _ => rfl, fun _ => rfl⟩
  | macMax a b o => exact ⟨_, readsInOrder_calc2 (maxResult Config.fp) a b, fun _ => rfl, fun _ => rfl⟩
  | macSlt a b o => exact ⟨_, readsInOrder_calc2 (sltResult Config.fp) a b, fun _ => rfl, fun _ => rfl⟩
  | macSge a b o => exact ⟨_, readsInOrder_calc2 (sgeResult Config.fp) a b, fun _ => rfl, fun _ => rfl⟩
  | macArl a n => exact absurd rfl h
  | iluNop => exact ⟨_, readsInOrder_nil default, fun _ => rfl, fun _ => rfl⟩
  | iluMov c o => exact ⟨_, readsInOrder_calc1 iluMovResult c, fun _ => rfl, fun _ => rfl⟩
  | iluRcp c o => exact ⟨_, readsInOrder_calc1 (rcpResult Config.fp) c, fun _ => rfl, fun _ => rfl⟩
  | iluRcc c o => exact ⟨_, readsInOrder_calc1 (rccResult Config.fp) c, fun _ => rfl, fun _ => rfl⟩
  | iluRsq c o => exact ⟨_, readsInOrder_calc1 (rsqResult Config.fp) c, fun _ => rfl, fun _ => rfl⟩
  | iluExp c o => exact ⟨_, readsInOrder_calc1 (expResult Config.fp) c, fun _ => rfl, fun _ => rfl⟩
  | iluLog c o => exact ⟨_, readsInOrder_calc1 (logResult Config.fp) c, fun _ => rfl, fun _ => rfl⟩
  | iluLit c o => exact ⟨_, readsInOrder_calc1 (litResult Config.fp) c, fun _ => rfl, fun _ => rfl⟩

/-- R104, R110, R150: what ARL can do: the fault of its operand's read; the write of A0 alone; or, routed to the
named-output stage, the write of A0 and then a fault. -/
theorem exec_arl (a : Operand) (named : Option NamedOut) (s : State) :
    (∃ f, evalOperand s a = .error f ∧ exec (.macArl a named) s = .next (takeExecutionFault f s)) ∨
      (∃ v, evalOperand s a = .ok v ∧ named = none ∧ exec (.macArl a named) s = .next (loadA0 v.x s)) ∨
      (∃ v f, evalOperand s a = .ok v ∧ named.isSome ∧
        exec (.macArl a named) s = .next (takeExecutionFault f (loadA0 v.x s))) := by
  have e : exec (.macArl a named) s = finish (runArl a named s) := rfl
  rw [e]
  unfold runArl
  cases h : evalOperand s a with
  | error f => exact .inl ⟨f, rfl, rfl⟩
  | ok v =>
    cases named with
    | none => exact .inr (.inl ⟨v, rfl, rfl, rfl⟩)
    | some n =>
      refine .inr (.inr ?_)
      simp only [runArlNamed]
      cases h' : evalOperand (loadA0 v.x s) a with
      | error f => exact ⟨v, f, rfl, rfl, by simp [finish]⟩
      | ok w => exact ⟨v, _, rfl, rfl, by simp [finish]; rfl⟩

/-- The state an outcome of statements goes on from, and whether a fault is taken in it. -/
theorem finish_eq (r : Except (Fault × State) State) :
    (∃ t, r = .ok t ∧ finish r = .next t) ∨ ∃ f t, r = .error (f, t) ∧ finish r = .next (takeExecutionFault f t) := by
  cases r with
  | ok t => exact .inl ⟨t, rfl, rfl⟩
  | error e => exact .inr ⟨e.1, e.2, rfl, rfl⟩

/-- Every instruction answers a next state (R172, R177: a fault is taken in it). -/
theorem exec_answers_next (i : Instr) (s : State) : ∃ t, exec i s = .next t := by
  by_cases h : i.macOp = some .arl
  · obtain ⟨a, n, rfl⟩ : ∃ a n, i = .macArl a n := by cases i <;> simp_all [Instr.macOp]
    obtain ⟨_, _, e⟩ | ⟨_, _, _, e⟩ | ⟨_, _, _, _, e⟩ := exec_arl a n s
    · exact ⟨_, e⟩
    · exact ⟨_, e⟩
    · exact ⟨_, e⟩
  · obtain ⟨value, -, e, -⟩ := exec_vector i h
    rw [e]
    obtain ⟨t, -, h⟩ | ⟨f, t, -, h⟩ := finish_eq (runStmts value (vecWrites i) s)
    · exact ⟨t, h⟩
    · exact ⟨_, h⟩

/-- What a list of statements with these destinations and masks leaves unchanged. -/
def Untouched (ws : List (VecDest × Mask)) (s t : State) : Prop :=
  SameRun s t ∧ t.draws = s.draws ∧ t.vertex.a0 = s.vertex.a0 ∧ t.vertex.attrs = s.vertex.attrs ∧
    t.vertex.clip = s.vertex.clip ∧ t.vertex.fault = s.vertex.fault ∧
    (∀ (n : Fin 13) (l : Fin 4), (∀ w ∈ ws, w.1.isTemp n = true → enabled w.2 l = false) →
      t.vertex.temps[n].get l = s.vertex.temps[n].get l) ∧
    (∀ (o : OutReg) (l : Fin 4), (∀ w ∈ ws, w.1.isOut o = true → enabled w.2 l = false) →
      (outValue t.vertex o).get l = (outValue s.vertex o).get l) ∧
    (∀ (a : Fin 192) (l : Fin 4), (∀ w ∈ ws, w.1.isConst a = true → enabled w.2 l = false) →
      t.vertex.consts[a].get l = s.vertex.consts[a].get l)

theorem untouched_refl (ws : List (VecDest × Mask)) (s : State) : Untouched ws s s := by
  simp [Untouched, SameRun]

theorem sameRun_trans {s t u : State} (h : SameRun s t) (h' : SameRun t u) : SameRun s u := by
  obtain ⟨h1, h2, h3, h4, h5, h6, h7, h8, h9⟩ := h
  obtain ⟨k1, k2, k3, k4, k5, k6, k7, k8, k9⟩ := h'
  exact ⟨k1.trans h1, k2.trans h2, k3.trans h3, k4.trans h4, k5.trans h5, k6.trans h6, k7.trans h7, k8.trans h8,
    k9.trans h9⟩

theorem untouched_trans {w : VecDest × Mask} {ws : List (VecDest × Mask)} {s t u : State} {r : Vec4}
    (h : Wrote w.1 w.2 r s t) (h' : Untouched ws t u) : Untouched (w :: ws) s u := by
  obtain ⟨h1, h2, h3, h4, h5, h6, hT, hO, hC⟩ := h
  obtain ⟨k1, k2, k3, k4, k5, k6, kT, kO, kC⟩ := h'
  refine ⟨sameRun_trans h1 k1, k2.trans h2, k3.trans h3, k4.trans h4, k5.trans h5, k6.trans h6, ?_, ?_, ?_⟩
  · intro n l hl
    rw [kT n l (fun x hx => hl x (List.mem_cons_of_mem _ hx)), hT n]
    split
    · simp [hl w List.mem_cons_self ‹_›]
    · rfl
  · intro n l hl
    rw [kO n l (fun x hx => hl x (List.mem_cons_of_mem _ hx)), hO n]
    split
    · simp [hl w List.mem_cons_self ‹_›]
    · rfl
  · intro n l hl
    rw [kC n l (fun x hx => hl x (List.mem_cons_of_mem _ hx)), hC n]
    split
    · simp [hl w List.mem_cons_self ‹_›]
    · rfl

/-- R111, R172: a list of statements, run to its end or to its first fault, leaves the rest of the machine unchanged. -/
theorem runStmts_untouched (value : Calc) : ∀ (ws : List (VecDest × Mask)) (s : State),
    (∃ t, runStmts value ws s = .ok t ∧ Untouched ws s t) ∨
      (∃ f t, runStmts value ws s = .error (f, t) ∧ Untouched ws s t)
  | [], s => .inl ⟨s, rfl, untouched_refl _ s⟩
  | w :: ws, s => by
    obtain ⟨r, u, -, -, hu, hw⟩ | ⟨r, -, -, hu⟩ | ⟨f, -, hu⟩ := runStmt_cases value w.1 w.2 s
    · obtain ⟨t, ht, hk⟩ | ⟨f, t, ht, hk⟩ := runStmts_untouched value ws u
      · exact .inl ⟨t, by simp [runStmts, hu, ht], untouched_trans hw hk⟩
      · exact .inr ⟨f, t, by simp [runStmts, hu, ht], untouched_trans hw hk⟩
    · exact .inr ⟨destFault s.slot w.1, s, by simp [runStmts, hu], untouched_refl _ s⟩
    · exact .inr ⟨f, s, by simp [runStmts, hu], untouched_refl _ s⟩

/-- R103, R105: a vector instruction's writes beside its named-output stage. -/
theorem vecWrites_withoutNamed {i : Instr} {w w' : VecDest × Mask} (h : i.macOp ≠ some .arl)
    (hw : vecWrites i = [w, w']) : vecWrites (withoutNamed i) = [w] := by
  have key : ∀ (n : BitVec 4) (m : Mask) (x : Option NamedOut),
      regWrite n m ++ outWrite x = [w, w'] → regWrite n m ++ outWrite none = [w] := by
    intro n m x
    unfold regWrite outWrite
    cases x <;> split <;> simp +contextual
  cases i with
  | macNop => exact absurd hw (by simp [vecWrites, Instr.unit, Instr.out, outWrite, Instr.named])
  | iluNop => exact absurd hw (by simp [vecWrites, Instr.unit, Instr.out, outWrite, Instr.named])
  | macArl a n => exact absurd rfl h
  | macMov a o => exact key _ _ _ hw
  | macMul a b o => exact key _ _ _ hw
  | macAdd a c o => exact key _ _ _ hw
  | macMad a b c o => exact key _ _ _ hw
  | macDp3 a b o => exact key _ _ _ hw
  | macDph a b o => exact key _ _ _ hw
  | macDp4 a b o => exact key _ _ _ hw
  | macDst a b o => exact key _ _ _ hw
  | macMin a b o => exact key _ _ _ hw
  | macMax a b o => exact key _ _ _ hw
  | macSlt a b o => exact key _ _ _ hw
  | macSge a b o => exact key _ _ _ hw
  | iluMov c o => exact key _ _ _ hw
  | iluRcp c o => exact key _ _ _ hw
  | iluRcc c o => exact key _ _ _ hw
  | iluRsq c o => exact key _ _ _ hw
  | iluExp c o => exact key _ _ _ hw
  | iluLog c o => exact key _ _ _ hw
  | iluLit c o => exact key _ _ _ hw

end Sys2Proof.Machine
end

