-- ==== Sys2Proof/Laws/Fields.lean ====
section
/-! SUPPORT. The field extractor read back from the encoder's words: every field of `Fields.toSlot` is the field that was
put there. -/

namespace Sys2Proof

@[simp] theorem readFields_toSlot_ilu (f : Fields) : (readFields f.toSlot).ilu = f.ilu := by
  apply BitVec.eq_of_getLsbD_eq
  intro i hi
  simp only [readFields, F, extract, descriptor, Slot.word, Fields.toSlot, BitVec.getLsbD_setWidth, BitVec.getLsbD_and,
    BitVec.getLsbD_ushiftRight, BitVec.getLsbD_append]
  interval_cases i <;> simp

@[simp] theorem readFields_toSlot_mac (f : Fields) : (readFields f.toSlot).mac = f.mac := by
  apply BitVec.eq_of_getLsbD_eq
  intro i hi
  simp only [readFields, F, extract, descriptor, Slot.word, Fields.toSlot, BitVec.getLsbD_setWidth, BitVec.getLsbD_and,
    BitVec.getLsbD_ushiftRight, BitVec.getLsbD_append]
  interval_cases i <;> simp

@[simp] theorem readFields_toSlot_const (f : Fields) : (readFields f.toSlot).const = f.const := by
  apply BitVec.eq_of_getLsbD_eq
  intro i hi
  simp only [readFields, F, extract, descriptor, Slot.word, Fields.toSlot, BitVec.getLsbD_setWidth, BitVec.getLsbD_and,
    BitVec.getLsbD_ushiftRight, BitVec.getLsbD_append]
  interval_cases i <;> simp

@[simp] theorem readFields_toSlot_v (f : Fields) : (readFields f.toSlot).v = f.v := by
  apply BitVec.eq_of_getLsbD_eq
  intro i hi
  simp only [readFields, F, extract, descriptor, Slot.word, Fields.toSlot, BitVec.getLsbD_setWidth, BitVec.getLsbD_and,
    BitVec.getLsbD_ushiftRight, BitVec.getLsbD_append]
  interval_cases i <;> simp

@[simp] theorem readFields_toSlot_aNeg (f : Fields) : (readFields f.toSlot).aNeg = f.aNeg := by
  apply BitVec.eq_of_getLsbD_eq
  intro i hi
  simp only [readFields, F, extract, descriptor, Slot.word, Fields.toSlot, BitVec.getLsbD_setWidth, BitVec.getLsbD_and,
    BitVec.getLsbD_ushiftRight, BitVec.getLsbD_append]
  interval_cases i <;> simp

@[simp] theorem readFields_toSlot_aSwzX (f : Fields) : (readFields f.toSlot).aSwzX = f.aSwzX := by
  apply BitVec.eq_of_getLsbD_eq
  intro i hi
  simp only [readFields, F, extract, descriptor, Slot.word, Fields.toSlot, BitVec.getLsbD_setWidth, BitVec.getLsbD_and,
    BitVec.getLsbD_ushiftRight, BitVec.getLsbD_append]
  interval_cases i <;> simp

@[simp] theorem readFields_toSlot_aSwzY (f : Fields) : (readFields f.toSlot).aSwzY = f.aSwzY := by
  apply BitVec.eq_of_getLsbD_eq
  intro i hi
  simp only [readFields, F, extract, descriptor, Slot.word, Fields.toSlot, BitVec.getLsbD_setWidth, BitVec.getLsbD_and,
    BitVec.getLsbD_ushiftRight, BitVec.getLsbD_append]
  interval_cases i <;> simp

@[simp] theorem readFields_toSlot_aSwzZ (f : Fields) : (readFields f.toSlot).aSwzZ = f.aSwzZ := by
  apply BitVec.eq_of_getLsbD_eq
  intro i hi
  simp only [readFields, F, extract, descriptor, Slot.word, Fields.toSlot, BitVec.getLsbD_setWidth, BitVec.getLsbD_and,
    BitVec.getLsbD_ushiftRight, BitVec.getLsbD_append]
  interval_cases i <;> simp

@[simp] theorem readFields_toSlot_aSwzW (f : Fields) : (readFields f.toSlot).aSwzW = f.aSwzW := by
  apply BitVec.eq_of_getLsbD_eq
  intro i hi
  simp only [readFields, F, extract, descriptor, Slot.word, Fields.toSlot, BitVec.getLsbD_setWidth, BitVec.getLsbD_and,
    BitVec.getLsbD_ushiftRight, BitVec.getLsbD_append]
  interval_cases i <;> simp

@[simp] theorem readFields_toSlot_aR (f : Fields) : (readFields f.toSlot).aR = f.aR := by
  apply BitVec.eq_of_getLsbD_eq
  intro i hi
  simp only [readFields, F, extract, descriptor, Slot.word, Fields.toSlot, BitVec.getLsbD_setWidth, BitVec.getLsbD_and,
    BitVec.getLsbD_ushiftRight, BitVec.getLsbD_append]
  interval_cases i <;> simp

@[simp] theorem readFields_toSlot_aMux (f : Fields) : (readFields f.toSlot).aMux = f.aMux := by
  apply BitVec.eq_of_getLsbD_eq
  intro i hi
  simp only [readFields, F, extract, descriptor, Slot.word, Fields.toSlot, BitVec.getLsbD_setWidth, BitVec.getLsbD_and,
    BitVec.getLsbD_ushiftRight, BitVec.getLsbD_append]
  interval_cases i <;> simp

@[simp] theorem readFields_toSlot_bNeg (f : Fields) : (readFields f.toSlot).bNeg = f.bNeg := by
  apply BitVec.eq_of_getLsbD_eq
  intro i hi
  simp only [readFields, F, extract, descriptor, Slot.word, Fields.toSlot, BitVec.getLsbD_setWidth, BitVec.getLsbD_and,
    BitVec.getLsbD_ushiftRight, BitVec.getLsbD_append]
  interval_cases i <;> simp

@[simp] theorem readFields_toSlot_bSwzX (f : Fields) : (readFields f.toSlot).bSwzX = f.bSwzX := by
  apply BitVec.eq_of_getLsbD_eq
  intro i hi
  simp only [readFields, F, extract, descriptor, Slot.word, Fields.toSlot, BitVec.getLsbD_setWidth, BitVec.getLsbD_and,
    BitVec.getLsbD_ushiftRight, BitVec.getLsbD_append]
  interval_cases i <;> simp

@[simp] theorem readFields_toSlot_bSwzY (f : Fields) : (readFields f.toSlot).bSwzY = f.bSwzY := by
  apply BitVec.eq_of_getLsbD_eq
  intro i hi
  simp only [readFields, F, extract, descriptor, Slot.word, Fields.toSlot, BitVec.getLsbD_setWidth, BitVec.getLsbD_and,
    BitVec.getLsbD_ushiftRight, BitVec.getLsbD_append]
  interval_cases i <;> simp

@[simp] theorem readFields_toSlot_bSwzZ (f : Fields) : (readFields f.toSlot).bSwzZ = f.bSwzZ := by
  apply BitVec.eq_of_getLsbD_eq
  intro i hi
  simp only [readFields, F, extract, descriptor, Slot.word, Fields.toSlot, BitVec.getLsbD_setWidth, BitVec.getLsbD_and,
    BitVec.getLsbD_ushiftRight, BitVec.getLsbD_append]
  interval_cases i <;> simp

@[simp] theorem readFields_toSlot_bSwzW (f : Fields) : (readFields f.toSlot).bSwzW = f.bSwzW := by
  apply BitVec.eq_of_getLsbD_eq
  intro i hi
  simp only [readFields, F, extract, descriptor, Slot.word, Fields.toSlot, BitVec.getLsbD_setWidth, BitVec.getLsbD_and,
    BitVec.getLsbD_ushiftRight, BitVec.getLsbD_append]
  interval_cases i <;> simp

@[simp] theorem readFields_toSlot_bR (f : Fields) : (readFields f.toSlot).bR = f.bR := by
  apply BitVec.eq_of_getLsbD_eq
  intro i hi
  simp only [readFields, F, extract, descriptor, Slot.word, Fields.toSlot, BitVec.getLsbD_setWidth, BitVec.getLsbD_and,
    BitVec.getLsbD_ushiftRight, BitVec.getLsbD_append]
  interval_cases i <;> simp

@[simp] theorem readFields_toSlot_bMux (f : Fields) : (readFields f.toSlot).bMux = f.bMux := by
  apply BitVec.eq_of_getLsbD_eq
  intro i hi
  simp only [readFields, F, extract, descriptor, Slot.word, Fields.toSlot, BitVec.getLsbD_setWidth, BitVec.getLsbD_and,
    BitVec.getLsbD_ushiftRight, BitVec.getLsbD_append]
  interval_cases i <;> simp

@[simp] theorem readFields_toSlot_cNeg (f : Fields) : (readFields f.toSlot).cNeg = f.cNeg := by
  apply BitVec.eq_of_getLsbD_eq
  intro i hi
  simp only [readFields, F, extract, descriptor, Slot.word, Fields.toSlot, BitVec.getLsbD_setWidth, BitVec.getLsbD_and,
    BitVec.getLsbD_ushiftRight, BitVec.getLsbD_append]
  interval_cases i <;> simp

@[simp] theorem readFields_toSlot_cSwzX (f : Fields) : (readFields f.toSlot).cSwzX = f.cSwzX := by
  apply BitVec.eq_of_getLsbD_eq
  intro i hi
  simp only [readFields, F, extract, descriptor, Slot.word, Fields.toSlot, BitVec.getLsbD_setWidth, BitVec.getLsbD_and,
    BitVec.getLsbD_ushiftRight, BitVec.getLsbD_append]
  interval_cases i <;> simp

@[simp] theorem readFields_toSlot_cSwzY (f : Fields) : (readFields f.toSlot).cSwzY = f.cSwzY := by
  apply BitVec.eq_of_getLsbD_eq
  intro i hi
  simp only [readFields, F, extract, descriptor, Slot.word, Fields.toSlot, BitVec.getLsbD_setWidth, BitVec.getLsbD_and,
    BitVec.getLsbD_ushiftRight, BitVec.getLsbD_append]
  interval_cases i <;> simp

@[simp] theorem readFields_toSlot_cSwzZ (f : Fields) : (readFields f.toSlot).cSwzZ = f.cSwzZ := by
  apply BitVec.eq_of_getLsbD_eq
  intro i hi
  simp only [readFields, F, extract, descriptor, Slot.word, Fields.toSlot, BitVec.getLsbD_setWidth, BitVec.getLsbD_and,
    BitVec.getLsbD_ushiftRight, BitVec.getLsbD_append]
  interval_cases i <;> simp

@[simp] theorem readFields_toSlot_cSwzW (f : Fields) : (readFields f.toSlot).cSwzW = f.cSwzW := by
  apply BitVec.eq_of_getLsbD_eq
  intro i hi
  simp only [readFields, F, extract, descriptor, Slot.word, Fields.toSlot, BitVec.getLsbD_setWidth, BitVec.getLsbD_and,
    BitVec.getLsbD_ushiftRight, BitVec.getLsbD_append]
  interval_cases i <;> simp

@[simp] theorem readFields_toSlot_cRHigh (f : Fields) : (readFields f.toSlot).cRHigh = f.cRHigh := by
  apply BitVec.eq_of_getLsbD_eq
  intro i hi
  simp only [readFields, F, extract, descriptor, Slot.word, Fields.toSlot, BitVec.getLsbD_setWidth, BitVec.getLsbD_and,
    BitVec.getLsbD_ushiftRight, BitVec.getLsbD_append]
  interval_cases i <;> simp

@[simp] theorem readFields_toSlot_cRLow (f : Fields) : (readFields f.toSlot).cRLow = f.cRLow := by
  apply BitVec.eq_of_getLsbD_eq
  intro i hi
  simp only [readFields, F, extract, descriptor, Slot.word, Fields.toSlot, BitVec.getLsbD_setWidth, BitVec.getLsbD_and,
    BitVec.getLsbD_ushiftRight, BitVec.getLsbD_append]
  interval_cases i <;> simp

@[simp] theorem readFields_toSlot_cMux (f : Fields) : (readFields f.toSlot).cMux = f.cMux := by
  apply BitVec.eq_of_getLsbD_eq
  intro i hi
  simp only [readFields, F, extract, descriptor, Slot.word, Fields.toSlot, BitVec.getLsbD_setWidth, BitVec.getLsbD_and,
    BitVec.getLsbD_ushiftRight, BitVec.getLsbD_append]
  interval_cases i <;> simp

@[simp] theorem readFields_toSlot_outMacMask (f : Fields) : (readFields f.toSlot).outMacMask = f.outMacMask := by
  apply BitVec.eq_of_getLsbD_eq
  intro i hi
  simp only [readFields, F, extract, descriptor, Slot.word, Fields.toSlot, BitVec.getLsbD_setWidth, BitVec.getLsbD_and,
    BitVec.getLsbD_ushiftRight, BitVec.getLsbD_append]
  interval_cases i <;> simp

@[simp] theorem readFields_toSlot_outR (f : Fields) : (readFields f.toSlot).outR = f.outR := by
  apply BitVec.eq_of_getLsbD_eq
  intro i hi
  simp only [readFields, F, extract, descriptor, Slot.word, Fields.toSlot, BitVec.getLsbD_setWidth, BitVec.getLsbD_and,
    BitVec.getLsbD_ushiftRight, BitVec.getLsbD_append]
  interval_cases i <;> simp

@[simp] theorem readFields_toSlot_outIluMask (f : Fields) : (readFields f.toSlot).outIluMask = f.outIluMask := by
  apply BitVec.eq_of_getLsbD_eq
  intro i hi
  simp only [readFields, F, extract, descriptor, Slot.word, Fields.toSlot, BitVec.getLsbD_setWidth, BitVec.getLsbD_and,
    BitVec.getLsbD_ushiftRight, BitVec.getLsbD_append]
  interval_cases i <;> simp

@[simp] theorem readFields_toSlot_outOMask (f : Fields) : (readFields f.toSlot).outOMask = f.outOMask := by
  apply BitVec.eq_of_getLsbD_eq
  intro i hi
  simp only [readFields, F, extract, descriptor, Slot.word, Fields.toSlot, BitVec.getLsbD_setWidth, BitVec.getLsbD_and,
    BitVec.getLsbD_ushiftRight, BitVec.getLsbD_append]
  interval_cases i <;> simp

@[simp] theorem readFields_toSlot_outOrb (f : Fields) : (readFields f.toSlot).outOrb = f.outOrb := by
  apply BitVec.eq_of_getLsbD_eq
  intro i hi
  simp only [readFields, F, extract, descriptor, Slot.word, Fields.toSlot, BitVec.getLsbD_setWidth, BitVec.getLsbD_and,
    BitVec.getLsbD_ushiftRight, BitVec.getLsbD_append]
  interval_cases i <;> simp

@[simp] theorem readFields_toSlot_outAddress (f : Fields) : (readFields f.toSlot).outAddress = f.outAddress := by
  apply BitVec.eq_of_getLsbD_eq
  intro i hi
  simp only [readFields, F, extract, descriptor, Slot.word, Fields.toSlot, BitVec.getLsbD_setWidth, BitVec.getLsbD_and,
    BitVec.getLsbD_ushiftRight, BitVec.getLsbD_append]
  interval_cases i <;> simp

@[simp] theorem readFields_toSlot_outMux (f : Fields) : (readFields f.toSlot).outMux = f.outMux := by
  apply BitVec.eq_of_getLsbD_eq
  intro i hi
  simp only [readFields, F, extract, descriptor, Slot.word, Fields.toSlot, BitVec.getLsbD_setWidth, BitVec.getLsbD_and,
    BitVec.getLsbD_ushiftRight, BitVec.getLsbD_append]
  interval_cases i <;> simp

@[simp] theorem readFields_toSlot_a0x (f : Fields) : (readFields f.toSlot).a0x = f.a0x := by
  apply BitVec.eq_of_getLsbD_eq
  intro i hi
  simp only [readFields, F, extract, descriptor, Slot.word, Fields.toSlot, BitVec.getLsbD_setWidth, BitVec.getLsbD_and,
    BitVec.getLsbD_ushiftRight, BitVec.getLsbD_append]
  interval_cases i <;> simp

@[simp] theorem readFields_toSlot_final (f : Fields) : (readFields f.toSlot).final = f.final := by
  apply BitVec.eq_of_getLsbD_eq
  intro i hi
  simp only [readFields, F, extract, descriptor, Slot.word, Fields.toSlot, BitVec.getLsbD_setWidth, BitVec.getLsbD_and,
    BitVec.getLsbD_ushiftRight, BitVec.getLsbD_append]
  interval_cases i <;> simp

/-- R52, R79: reading the fields of the words that hold them. -/
@[simp] theorem readFields_toSlot (f : Fields) : readFields f.toSlot = f := by
  have e : ∀ g : Fields, g = ⟨g.ilu, g.mac, g.const, g.v, g.aNeg, g.aSwzX, g.aSwzY, g.aSwzZ, g.aSwzW, g.aR, g.aMux, g.bNeg, g.bSwzX, g.bSwzY, g.bSwzZ, g.bSwzW, g.bR, g.bMux, g.cNeg, g.cSwzX, g.cSwzY, g.cSwzZ, g.cSwzW, g.cRHigh, g.cRLow, g.cMux, g.outMacMask, g.outR, g.outIluMask, g.outOMask, g.outOrb, g.outAddress, g.outMux, g.a0x, g.final⟩ := fun _ => rfl
  rw [e (readFields f.toSlot)]
  simp only [readFields_toSlot_ilu, readFields_toSlot_mac, readFields_toSlot_const, readFields_toSlot_v, readFields_toSlot_aNeg, readFields_toSlot_aSwzX, readFields_toSlot_aSwzY, readFields_toSlot_aSwzZ, readFields_toSlot_aSwzW, readFields_toSlot_aR, readFields_toSlot_aMux, readFields_toSlot_bNeg, readFields_toSlot_bSwzX, readFields_toSlot_bSwzY, readFields_toSlot_bSwzZ, readFields_toSlot_bSwzW, readFields_toSlot_bR, readFields_toSlot_bMux, readFields_toSlot_cNeg, readFields_toSlot_cSwzX, readFields_toSlot_cSwzY, readFields_toSlot_cSwzZ, readFields_toSlot_cSwzW, readFields_toSlot_cRHigh, readFields_toSlot_cRLow, readFields_toSlot_cMux, readFields_toSlot_outMacMask, readFields_toSlot_outR, readFields_toSlot_outIluMask, readFields_toSlot_outOMask, readFields_toSlot_outOrb, readFields_toSlot_outAddress, readFields_toSlot_outMux, readFields_toSlot_a0x, readFields_toSlot_final]

end Sys2Proof
end

