-- ==== Sys2Proof/Laws/Run.lean ====
section
/-! SUPPORT. What each step of the run can do, said once: the host's run unrolled, the scan of one slot, the fetch, and
the moves around the statements. -/

namespace Sys2Proof.Machine

theorem core_run_zero (s : State) : Sys2Proof.core.run 0 s = .next s := rfl

/-- The host's run, unrolled by one step. -/
theorem hostRun_next (M : Host.Core) {s t : M.State} (h : M.step s = .next t) (n : Nat) : M.run (n + 1) s = M.run n t := by
  simp [Host.Core.run, h]

theorem hostRun_fault (M : Host.Core) {s : M.State} {f : M.Fault} (h : M.step s = .fault f) (n : Nat) :
    M.run (n + 1) s = .fault f := by
  simp [Host.Core.run, h]

theorem hostRun_refused (M : Host.Core) {s : M.State} {r : M.Refusal} (h : M.step s = .refused r) (n : Nat) :
    M.run (n + 1) s = .refused r := by
  simp [Host.Core.run, h]

theorem core_run_next {s t : State} (h : step s = .next t) (n : Nat) :
    Sys2Proof.core.run (n + 1) s = Sys2Proof.core.run n t :=
  hostRun_next Sys2Proof.core h n

theorem core_run_fault {s : State} {f : Fault} (h : step s = .fault f) (n : Nat) :
    Sys2Proof.core.run (n + 1) s = .fault f :=
  hostRun_fault Sys2Proof.core h n

theorem core_run_refused {s : State} {r : Refusal} (h : step s = .refused r) (n : Nat) :
    Sys2Proof.core.run (n + 1) s = .refused r :=
  hostRun_refused Sys2Proof.core h n

/-- A run of several steps in two parts. -/
theorem core_run_add (m n : Nat) {s t : State} (h : Sys2Proof.core.run m s = .next t) :
    Sys2Proof.core.run (m + n) s = Sys2Proof.core.run n t := by
  induction m generalizing s with
  | zero =>
    rw [core_run_zero] at h
    cases h
    rw [Nat.zero_add]
  | succ m ih =>
    rw [show m + 1 + n = (m + n) + 1 by omega]
    cases hs : step s with
    | next u =>
      rw [core_run_next hs] at h ⊢
      exact ih h
    | fault f =>
      rw [core_run_fault hs] at h
      cases h
    | refused r =>
      rw [core_run_refused hs] at h
      cases h

theorem step_translating {s : State} (h : s.stage = .translating) : step s = .next (scanStep s) := by simp [step, h]

theorem step_prologue {s : State} (h : s.stage = .prologue) : step s = .next (prologueStep s) := by simp [step, h]

theorem step_executing {s : State} (h : s.stage = .executing) : step s = bodyStep s := by simp [step, h]

theorem step_ended {s : State} (h : s.stage = .ended) : step s = endStep s := by simp [step, h]

/-- R124 to R128: what one turn of the scan can do. -/
theorem scanSlot_cases (s : State) :
    (s.program[s.trans.k]? = none ∧
        scanSlot s = takeTranslationFault (.malformedProgram s.program.length) s) ∨
      (∃ w e, s.program[s.trans.k]? = some w ∧ decodeSlot w = .error e ∧
        scanSlot s = takeTranslationFault (Fault.ofDecode s.trans.k e) s) ∨
      (∃ w d, s.program[s.trans.k]? = some w ∧ decodeSlot w = .ok d ∧ scanSlot s = acceptSlot w d s) := by
  unfold scanSlot
  cases hw : s.program[s.trans.k]? with
  | none => exact .inl ⟨rfl, rfl⟩
  | some w =>
    cases hd : decodeSlot w with
    | error e => exact .inr (.inl ⟨w, e, rfl, hd, by simp [hd]⟩)
    | ok d => exact .inr (.inr ⟨w, d, rfl, hd, by simp [hd]⟩)

/-- R118: past the last slot of the body there is nothing to fetch. -/
theorem fetch_eq_none_iff (s : State) : fetch s = none ↔ s.trans.body.length ≤ s.slot := by simp [fetch]

/-- R118, R134: the instruction fetched is the one its slot's record holds for the unit at the cursor. -/
theorem fetch_of_record {s : State} {r : SlotRecord} (h : s.trans.body[s.slot]? = some r) :
    fetch s = some (r.code.instr s.unit) := by simp [fetch, h]

/-- R132: past the last slot of the body a step runs the epilogue. -/
theorem bodyStep_past {s : State} (h : s.trans.body.length ≤ s.slot) : bodyStep s = .next (epilogueStep s) := by
  simp [bodyStep, (fetch_eq_none_iff s).2 h]

/-- R134: inside the body a step runs the instruction fetched and moves on. -/
theorem bodyStep_inside {s t : State} {i : Instr} (h : fetch s = some i) (he : exec i s = .next t) :
    bodyStep s = .next (advance t) := by simp [bodyStep, h, he]

theorem advance_mac {s : State} (h : s.stage = .executing) (hu : s.unit = .mac) : advance s = { s with unit := .ilu } := by
  simp [advance, h, hu]

theorem advance_ilu {s : State} (h : s.stage = .executing) (hu : s.unit = .ilu) :
    advance s = { s with slot := s.slot + 1, unit := .mac } := by simp [advance, h, hu]

/-- R172: a run that a fault has ended does not move on. -/
theorem advance_other {s : State} (h : s.stage ≠ .executing) : advance s = s := by
  unfold advance
  split <;> simp_all

/-- R124: the translated records do not depend on what follows the first final slot, nor on the count a malformed
program reports. -/
theorem translateFrom_append : ∀ (P Q : List Slot) (N M k : Nat) (body : List SlotRecord),
    translateFrom N k P = .ok body → translateFrom M k (P ++ Q) = .ok body
  | [], _, _, _, _, _, h => by simp [translateFrom] at h
  | w :: ws, Q, N, M, k, body, h => by
    simp only [translateFrom, List.cons_append] at *
    cases hd : decodeSlot w with
    | error e => simp [hd] at h
    | ok d =>
      simp only [hd] at *
      split
      · simpa [*] using h
      · rename_i hf
        simp only [hf] at h
        cases ht : translateFrom N (k + 1) ws with
        | error f => simp [ht] at h
        | ok rest =>
          rw [translateFrom_append ws Q N M (k + 1) rest ht]
          simpa [ht] using h

/-- R124: over slots that decode and are not final the scan reaches the fault that lies behind them. -/
theorem translateFrom_error_after : ∀ (P Q : List Slot) (N k : Nat),
    (∀ x ∈ P, ∃ d, decodeSlot x = .ok d ∧ d.final = false) →
    ∀ f, translateFrom N (k + P.length) Q = .error f → translateFrom N k (P ++ Q) = .error f
  | [], _, _, _, _, _, h => h
  | w :: ws, Q, N, k, hP, f, h => by
    obtain ⟨d, hd, hf⟩ := hP w (by simp)
    have := translateFrom_error_after ws Q N (k + 1) (fun x hx => hP x (by simp [hx])) f
      (by rw [← h, List.length_cons, Nat.add_assoc, Nat.add_comm 1])
    simp [translateFrom, hd, hf, this]

/-- R37: the slots of a word sequence: none where its length is no multiple of 4, else slot k of words 4k to 4k+3. -/
theorem slotsOfWords_spec : ∀ words : List Word,
    (words.length % 4 ≠ 0 → slotsOfWords words = none) ∧
    (words.length % 4 = 0 → ∃ P, slotsOfWords words = some P ∧ P.length = words.length / 4 ∧
      ∀ (k : Nat) (w : Slot), P[k]? = some w → words[4 * k]? = some w.w0 ∧ words[4 * k + 1]? = some w.w1 ∧
        words[4 * k + 2]? = some w.w2 ∧ words[4 * k + 3]? = some w.w3)
  | [] => by simp [slotsOfWords]
  | [_] => by simp [slotsOfWords]
  | [_, _] => by simp [slotsOfWords]
  | [_, _, _] => by simp [slotsOfWords]
  | a :: b :: c :: d :: rest => by
    have ih := slotsOfWords_spec rest
    constructor
    · intro h
      have := ih.1 (by simp at h; omega)
      simp [slotsOfWords, this]
    · intro h
      obtain ⟨P, h1, h2, h3⟩ := ih.2 (by simp at h; omega)
      refine ⟨⟨a, b, c, d⟩ :: P, by simp [slotsOfWords, h1], by simp; omega, ?_⟩
      intro k w hk
      cases k with
      | zero =>
        simp at hk
        subst hk
        simp
      | succ k =>
        have := h3 k w (by simpa using hk)
        rw [show 4 * (k + 1) = 4 * k + 1 + 1 + 1 + 1 by omega]
        simpa using this

/-- R39: a word from four bytes, as a number. -/
theorem wordOfBytes_toNat (o : WordOrder) (b0 b1 b2 b3 : BitVec 8) :
    (wordOfBytes o b0 b1 b2 b3).toNat = match o with
    | .littleEndian => b0.toNat + 2 ^ 8 * b1.toNat + 2 ^ 16 * b2.toNat + 2 ^ 24 * b3.toNat
    | .bigEndian => b3.toNat + 2 ^ 8 * b2.toNat + 2 ^ 16 * b1.toNat + 2 ^ 24 * b0.toNat := by
  have h0 := b0.isLt; have h1 := b1.isLt; have h2 := b2.isLt; have h3 := b3.isLt
  cases o <;> simp only [wordOfBytes, BitVec.toNat_append] <;>
    (repeat rw [← Nat.shiftLeft_add_eq_or_of_lt (by omega)]) <;> simp only [Nat.shiftLeft_eq] <;> omega

/-- R39: the words of a byte image, word k from bytes 4k to 4k+3; none exactly where a word is cut short. -/
theorem wordsOfBytes_spec (o : WordOrder) : ∀ bytes : List (BitVec 8),
    (bytes.length % 4 ≠ 0 → wordsOfBytes o bytes = none) ∧
    (bytes.length % 4 = 0 →
      ∃ words, wordsOfBytes o bytes = some words ∧ words.length = bytes.length / 4 ∧
        ∀ (k : Nat) (w : Word) (b0 b1 b2 b3 : BitVec 8), words[k]? = some w → bytes[4 * k]? = some b0 →
          bytes[4 * k + 1]? = some b1 → bytes[4 * k + 2]? = some b2 → bytes[4 * k + 3]? = some b3 →
          w = wordOfBytes o b0 b1 b2 b3)
  | [] => by simp [wordsOfBytes]
  | [_] => by simp [wordsOfBytes]
  | [_, _] => by simp [wordsOfBytes]
  | [_, _, _] => by simp [wordsOfBytes]
  | a :: b :: c :: d :: rest => by
    obtain ⟨h1, h2⟩ := wordsOfBytes_spec o rest
    simp only [List.length_cons, wordsOfBytes]
    constructor
    · intro h; rw [h1 (by omega)]; rfl
    · intro h
      obtain ⟨ws, e, l, hk⟩ := h2 (by omega)
      refine ⟨_, by rw [e]; rfl, by simp [l]; omega, ?_⟩
      intro k w b0 b1 b2 b3 h h0 h1 h2 h3
      cases k with
      | zero => simp at h h0 h1 h2 h3; subst_vars; rfl
      | succ k =>
        have e : 4 * (k + 1) = 4 * k + 1 + 1 + 1 + 1 := by omega
        rw [e] at h0 h1 h2 h3
        exact hk k w b0 b1 b2 b3 (by simpa using h) (by simpa using h0) (by simpa using h1) (by simpa using h2)
          (by simpa using h3)

end Sys2Proof.Machine
end

