-- ==== Sys2Proof/Tests/Slice0.lean ====
section
/-! SUPPORT. The model's own tests. Expected words, texts and values are those of spec/95_test_vectors.md (L1, L2, L3) and
of the examples of R138 to R159; the witnesses at the end show that the hypotheses of each statement can be met. -/

namespace Sys2Proof.Tests

open Sys2Proof.Machine

/-! ### Helpers -/

def v (n : BitVec 4) : Operand := ⟨.attr n, false, .identity⟩
def r (n : BitVec 4) : Operand := ⟨.temp n, false, .identity⟩
def c (a : BitVec 8) : Operand := ⟨.const a false, false, .identity⟩
def cRel (a : BitVec 8) : Operand := ⟨.const a true, false, .identity⟩
def sel (o : Operand) (l : Sel) : Operand := { o with swz := .broadcast l }
def out (n : BitVec 4) (m : Mask) : Out := ⟨n, m, false, none⟩
def named (j : BitVec 4) (m : Mask) : NamedOut := ⟨.named j, m⟩
def slot (w1 w2 w3 : Word) : Slot := ⟨0, w1, w2, w3⟩
def mac1 (i : Instr) : Except DecodeFault SlotInstr := .ok ⟨i, .iluNop, true⟩
def ilu1 (i : Instr) : Except DecodeFault SlotInstr := .ok ⟨.macNop, i, true⟩

/-! ### Well-formedness: one ill-formed term for each check -/

theorem test_wf_refuses_class_zero : (Instr.macMov ⟨.invalid .a, false, .identity⟩ (out 0 15)).wf = false := by decide
theorem test_wf_refuses_two_attributes : (Instr.macMul (v 1) (v 2) (out 0 15)).wf = false := by decide
theorem test_wf_refuses_two_constants : (Instr.macMul (c 1) (c 2) (out 0 15)).wf = false := by decide
theorem test_wf_refuses_two_address_flags : (Instr.macMul (c 1) (cRel 1) (out 0 15)).wf = false := by decide
theorem test_wf_refuses_empty_named_mask : (Instr.macMov (v 0) ⟨0, 15, false, some (named 3 0)⟩).wf = false := by decide
theorem test_wf_refuses_unforced_swizzle : (Instr.iluRcp (v 0) (out 0 15)).wf = false := by decide
theorem test_wf_accepts_unforced_lit : (Instr.iluLit (v 0) (out 0 15)).wf = true := by decide
theorem test_wf_refuses_swapped_units : (SlotInstr.mk .iluNop .macNop true).wf = false := by decide
theorem test_wf_refuses_bad_member : (SlotInstr.mk (.macMul (v 1) (v 2) (out 0 15)) .iluNop true).wf = false := by decide
theorem test_wf_refuses_slot_attributes :
    (SlotInstr.mk (.macMov (v 1) ⟨0, 15, true, none⟩) (.iluMov (v 2) ⟨0, 15, true, none⟩) true).wf = false := by decide
theorem test_wf_refuses_two_operands_c :
    (SlotInstr.mk (.macAdd (v 1) (r 2) ⟨0, 15, true, none⟩) (.iluMov (r 3) ⟨0, 15, true, none⟩) true).wf = false := by decide
theorem test_wf_refuses_two_registers :
    (SlotInstr.mk (.macMov (v 1) ⟨2, 15, true, none⟩) (.iluMov (r 3) ⟨0, 15, true, none⟩) true).wf = false := by decide
theorem test_wf_refuses_unpaired_mac :
    (SlotInstr.mk (.macMov (v 1) ⟨0, 15, false, none⟩) (.iluMov (r 3) ⟨0, 15, true, none⟩) true).wf = false := by decide
theorem test_wf_refuses_unpaired_ilu :
    (SlotInstr.mk (.macMov (v 1) ⟨0, 15, true, none⟩) (.iluMov (r 3) ⟨0, 15, false, none⟩) true).wf = false := by decide
theorem test_wf_refuses_two_named_stages :
    (SlotInstr.mk (.macMov (v 1) ⟨0, 15, true, some (named 3 15)⟩) (.iluMov (r 3) ⟨0, 15, true, some (named 4 15)⟩)
      true).wf = false := by decide

/-! ### Decoding: the words of the spec's examples -/

/-- R138. -/
theorem test_decode_macMov : decodeSlot (slot 0x0020001B 0x0836006C 0x1F000001) = mac1 (.macMov (v 0) (out 0 15)) := by
  decide
/-- R139. -/
theorem test_decode_macMul :
    decodeSlot (slot 0x004C001B 0x1436186C 0x1F200001) = mac1 (.macMul (r 1) (c 96) (out 2 15)) := by decide
/-- R140. -/
theorem test_decode_macAdd :
    decodeSlot (slot 0x0060001B 0x1436006C 0x9F300001) = mac1 (.macAdd (r 1) (r 2) (out 3 15)) := by decide
/-- R141. -/
theorem test_decode_macMad :
    decodeSlot (slot 0x008C221B 0x0836186D 0x1F400001) = mac1 (.macMad (v 1) (c 97) (r 4) (out 4 15)) := by decide
/-- R142. -/
theorem test_decode_macDp3 :
    decodeSlot (slot 0x00A0001B 0x1436486C 0x18500001) = mac1 (.macDp3 (r 1) (r 2) (out 5 8)) := by decide
/-- R143. -/
theorem test_decode_macDph :
    decodeSlot (slot 0x00CC801B 0x0836186C 0x14600001) = mac1 (.macDph (v 0) (c 100) (out 6 4)) := by decide
/-- R144. -/
theorem test_decode_macDp4 : decodeSlot (slot 0x00EC801B 0x0836186C 0x10008801) =
    mac1 (.macDp4 (v 0) (c 100) ⟨0, 0, false, some (named 0 8)⟩) := by decide
/-- R145. -/
theorem test_decode_macDst :
    decodeSlot (slot 0x0100001B 0x1436486C 0x1F700001) = mac1 (.macDst (r 1) (r 2) (out 7 15)) := by decide
/-- R146. -/
theorem test_decode_macMin :
    decodeSlot (slot 0x0120001B 0x1436486C 0x1F800001) = mac1 (.macMin (r 1) (r 2) (out 8 15)) := by decide
/-- R147. -/
theorem test_decode_macMax :
    decodeSlot (slot 0x0140001B 0x1436486C 0x1F900001) = mac1 (.macMax (r 1) (r 2) (out 9 15)) := by decide
/-- R148. -/
theorem test_decode_macSlt :
    decodeSlot (slot 0x0160001B 0x1436486C 0x1FA00001) = mac1 (.macSlt (r 1) (r 2) (out 10 15)) := by decide
/-- R149. -/
theorem test_decode_macSge :
    decodeSlot (slot 0x0180001B 0x1436486C 0x1FB00001) = mac1 (.macSge (r 1) (r 2) (out 11 15)) := by decide
/-- R150. -/
theorem test_decode_macArl : decodeSlot (slot 0x01A0021B 0x0836006C 0x10000001) = mac1 (.macArl (v 1) none) := by decide
/-- R120, L2-4.1: both NOP. -/
theorem test_decode_nops : decodeSlot (slot 0x0000001B 0x0036006C 0x10000001) = .ok ⟨.macNop, .iluNop, true⟩ := by decide
/-- R153. -/
theorem test_decode_iluMov : decodeSlot (slot 0x0200041B 0x0036006C 0x203F0001) = ilu1 (.iluMov (v 2) (out 3 15)) := by
  decide
/-- R154: the swizzle (y,x,z,w) forced to y. -/
theorem test_decode_iluRcp :
    decodeSlot (slot 0x0400001B 0x0036012D 0x50680001) = ilu1 (.iluRcp (sel (r 5) .y) (out 6 8)) := by decide
/-- R155. -/
theorem test_decode_iluRcc :
    decodeSlot (slot 0x0600001B 0x0036006D 0x506F0001) = ilu1 (.iluRcc (sel (r 5) .x) (out 6 15)) := by decide
/-- R156. -/
theorem test_decode_iluRsq :
    decodeSlot (slot 0x0800001B 0x003603FD 0x506F0001) = ilu1 (.iluRsq (sel (r 5) .w) (out 6 15)) := by decide
/-- R157. -/
theorem test_decode_iluExp :
    decodeSlot (slot 0x0A0F001B 0x0036006C 0x30620001) = ilu1 (.iluExp (sel (c 120) .x) (out 6 2)) := by decide
/-- R158. -/
theorem test_decode_iluLog :
    decodeSlot (slot 0x0C00081B 0x003602A8 0x20610001) = ilu1 (.iluLog (sel (v 4) .z) (out 6 1)) := by decide
/-- R159. -/
theorem test_decode_iluLit :
    decodeSlot (slot 0x0E00001B 0x0036006D 0x507F0001) = ilu1 (.iluLit (r 5) (out 7 15)) := by decide
/-- L2-4.7: MUL + RSQ. -/
theorem test_decode_pair : decodeSlot (slot 0x0840001B 0x3436886D 0x5F7F0001) =
    .ok ⟨.macMul (r 3) (r 4) ⟨7, 15, true, none⟩, .iluRsq (sel (r 5) .x) ⟨7, 15, true, none⟩, true⟩ := by decide
/-- L2-4.2. -/
theorem test_decode_class_c : decodeSlot (slot 0x0000001B 0x0036006C 0x00000001) = .error (.invalidOperandClass .c) := by
  decide
/-- L2-4.3. -/
theorem test_decode_reserved : decodeSlot (slot 0x01E0001B 0x0036006C 0x10000001) = .error (.reservedMacOpcode 15) := by
  decide
/-- L2-4.4: operand C is checked first. -/
theorem test_decode_c_first : decodeSlot (slot 0x01E0001B 0x0036006C 0x00000001) = .error (.invalidOperandClass .c) := by
  decide
/-- L2-4.5. -/
theorem test_decode_class_a : decodeSlot (slot 0x0020001B 0x0036006C 0x1F000001) = .error (.invalidOperandClass .a) := by
  decide
/-- L2-1.1 to L2-1.9: extracted field values. -/
theorem test_extract_example :
    [FieldName.ilu, .mac, .const, .aSwzX, .aSwzY, .aSwzZ, .aSwzW, .cMux, .outR, .outIluMask, .cRHigh, .cRLow].map
      (fun n => (F (slot 0x0A0F001B 0x0036006C 0x30620001) n).toNat) = [5, 0, 120, 0, 1, 2, 3, 3, 6, 2, 0, 0] := by decide
theorem test_extract_ones :
    fieldNames.all (fun n => (F ⟨0xFFFFFFFF, 0xFFFFFFFF, 0xFFFFFFFF, 0xFFFFFFFF⟩ n).toNat == 2 ^ (descriptor n).len - 1)
      = true := by decide
/-- L1-2, L2-2.1 to L2-2.3. -/
theorem test_remap : [0x60, 0x5F, 0x00, 0xBF, 0xC8].map remapConst = [96, 95, 0, 191, 200] := by decide
/-- R80, R164: a table with a window beyond 32 bits. -/
theorem test_bad_table : checkConfiguration [⟨.v, 1, 9, 4⟩, ⟨.mac, 1, 30, 4⟩] = .error (.fieldRangeViolation .mac) := by
  decide
theorem test_table_word : decodeTableWord 128 0x1F0000010836006C0020001B00000000 = some (.macMov (v 0) (out 0 15)) := by
  decide
theorem test_table_word_ilu :
    decodeTableWord 128 0x506800010036012D0400001B00000000 = some (.iluRcp (sel (r 5) .y) (out 6 8)) := by decide

/-! ### Text -/

/-- The statement texts of a slot that decodes. -/
def texts (t : Slot) : List String :=
  match decodeSlot t with
  | .ok d => (slotStmts d).map (fun x => x.op ++ "(" ++ destText x.dest x.mask ++ argsText x.args ++ ")")
  | .error _ => ["fault"]

/-- L1-3, L2-2.6 to L2-2.8. -/
theorem test_swizzle_text : [Swizzle.identity, .broadcast .x, ⟨.y, .x, .z, .w⟩, .broadcast .w, ⟨.x, .y, .z, .x⟩,
    ⟨.w, .z, .y, .x⟩].map swizzleText = ["", ".x", ".yxzw", ".w", ".xyzx", ".wzyx"] := by decide
/-- L1-4a. -/
theorem test_text_coissue : texts (slot 0x0420001B 0x0836012C 0x2F180001) = ["RCP(R1.x, v0.y)"] := by decide
/-- L1-4b. -/
theorem test_text_mac_nop : texts (slot 0x0400001B 0x0036006D 0x50780001) = ["RCP(R7.x, R5.x)"] := by decide
/-- L2-2.5. -/
theorem test_text_negate : texts (slot 0x0020A1FF 0x0C36006C 0x1F000001) = ["MOV(R0.xyzw, -c[5].w)"] := by decide
/-- L2-2.9. -/
theorem test_text_forced : texts (slot 0x0400001B 0x0036012C 0x20080001) = ["RCP(R0.x, v0.y)"] := by decide
/-- L2-2.10. -/
theorem test_text_lit : texts (slot 0x0E00001B 0x0036012C 0x200F0001) = ["LIT(R0.xyzw, v0.yxzw)"] := by decide
/-- L2-3.1. -/
theorem test_text_mask_zero : texts (slot 0x0020001B 0x0836006C 0x10000001) = [] := by decide
/-- L2-3.2. -/
theorem test_text_r1_alone : texts (slot 0x0020001B 0x0836006C 0x1F100001) = ["MOV(R1.xyzw, v0)"] := by decide
/-- L2-3.3. -/
theorem test_text_arl_rcp : texts (slot 0x05A0001B 0x0836006C 0x20180001) = ["ARL(A0, v0)", "RCP(R1.x, v0.x)"] := by
  decide
/-- L2-3.4. -/
theorem test_text_const : texts (slot 0x0020001B 0x0836006C 0x1000F051) = ["MOV(c[10].xyzw, v0)"] := by decide
/-- L2-3.5. -/
theorem test_text_ilu_named : texts (slot 0x02000A1B 0x0036006C 0x2000F84D) = ["MOV(oT0.xyzw, v5)"] := by decide
/-- L2-3.6. -/
theorem test_text_low_bits : texts (slot 0x0020001B 0x0836006C 0x1000F899) = ["MOV(oD0.xyzw, v0)"] := by decide
/-- L2-3.7. -/
theorem test_text_placeholder : texts (slot 0x0020001B 0x0836006C 0x1000F809) = ["MOV(???.xyzw, v0)"] := by decide
/-- L2-3.8. -/
theorem test_text_three : texts (slot 0x0440001B 0x0836106C 0x2F38F819) =
    ["MUL(R3.xyzw, v0, v0)", "MUL(oD0.xyzw, v0, v0)", "RCP(R1.x, v0.x)"] := by decide
/-- L2-6.20. -/
theorem test_text_relative : texts (slot 0x002C801B 0x0C36006C 0x1F400003) = ["MOV(R4.xyzw, c[A0+100])"] := by decide
/-- L1-5: the whole body text. -/
theorem test_text_body : (translateProgram [slot 0x0020001B 0x0800006C 0x1F000001]).toOption.map bodyText =
    some ("  /* Slot 0: 0x00000000 0x0020001B 0x0800006C 0x1F000001 */\n" ++ "  MOV(R0.xyzw, v0);\n\n") := by decide

/-! ### Operation results, over a small record: a lane holds a number of quarters (L2-6, L2-7) -/

def q (n : Int) : Lane := ⟨(n + 1000).toNat⟩
def val (l : Lane) : Int := (l.code : Int) - 1000
def vec (x y z w : Int) : Vec4 := ⟨q (4 * x), q (4 * y), q (4 * z), q (4 * w)⟩

/-- Whole and quarter numbers; division by zero answers 125. -/
def toy : FP where
  add a b := q (val a + val b)
  mul a b := q (val a * val b / 4)
  neg a := q (-val a)
  div a b := q (if val b = 0 then 500 else 4 * val a / val b)
  sqrt a := q (if val a = 64 then 16 else if val a = 16 then 8 else 0)
  exp2 a := q (4 * 2 ^ (val a / 4).toNat)
  log2 a := q (if val a = 32 then 12 else 0)
  pow a b := q (4 * (val a / 4) ^ (val b / 4).toNat)
  min a b := if val b < val a then b else a
  max a b := if val a < val b then b else a
  lt a b := decide (val a < val b)
  ge a b := decide (val b ≤ val a)
  gt a b := decide (val b < val a)
  eqzero a := decide (val a = 0)
  mad a b e := q (val a * val b / 4 + val e)
  dot3 a b e f g h := q ((val a * val f + val b * val g + val e * val h) / 4)
  dot4 a b := q ((val a.x * val b.x + val a.y * val b.y + val a.z * val b.z + val a.w * val b.w) / 4)
  clamp a lo hi := if val a < val lo then lo else if val hi < val a then hi else a
  ofInt n := q (4 * n)
  toIntTrunc a := if val a = 800 then none else some ((val a).tdiv 4)
  zero := q 0
  one := q 4
  rccMin := q 1
  rccMax := q 100

/-- R139. -/
theorem test_mul : mulResult toy (vec 1 2 3 4) (vec 5 6 7 8) = vec 5 12 21 32 := by decide
/-- R140. -/
theorem test_add : addResult toy (vec 1 2 3 4) (vec 10 20 30 40) = vec 11 22 33 44 := by decide
/-- R141. -/
theorem test_mad : madResult toy (vec 1 2 3 4) (vec 2 2 2 2) (vec 0 0 0 1) = vec 2 4 6 9 := by decide
/-- L2-6.5. -/
theorem test_dp3 : dp3Result toy (vec 1 2 3 4) (vec 5 6 7 8) = vec 38 38 38 38 := by decide
/-- L2-6.6. -/
theorem test_dph : dphResult toy (vec 1 2 3 4) (vec 5 6 7 8) = vec 46 46 46 46 := by decide
/-- L2-6.7. -/
theorem test_dp4 : dp4Result toy (vec 1 2 3 4) (vec 5 6 7 8) = vec 70 70 70 70 := by decide
/-- L2-6.9. -/
theorem test_dst : dstResult toy (vec 9 2 3 9) (vec 9 4 9 5) = vec 1 8 3 5 := by decide
/-- R146. -/
theorem test_min : minResult toy (vec 1 5 (-3) 0) (vec 2 4 (-4) 0) = vec 1 4 (-4) 0 := by decide
/-- R147. -/
theorem test_max : maxResult toy (vec 1 5 (-3) 0) (vec 2 4 (-4) 0) = vec 2 5 (-3) 0 := by decide
/-- L2-6.14. -/
theorem test_slt : sltResult toy (vec 1 2 3 4) (vec 1 1 4 4) = vec 0 0 1 0 := by decide
/-- L2-6.15. -/
theorem test_sge : sgeResult toy (vec 1 2 3 4) (vec 1 1 4 4) = vec 1 1 0 1 := by decide
/-- R150, L2-6.18: -2.75 truncates to -2, -0.5 to 0. -/
theorem test_arl : [q (-11), q (-2), q 11].map (arlResult toy 7) = [-2, 0, 2] := by decide
/-- L2-6.19: no integer, so the draw. -/
theorem test_arl_draw : arlResult toy 7 (q 800) = 7 := by decide
/-- L2-7.2, and the broadcast. -/
theorem test_rcp : rcpResult toy (vec 4 9 9 9) = Vec4.splat (q 1) := by decide
/-- R155, L2-7.6, L2-7.8: inside the bounds; above; below the positive bounds, so at the negative ones. -/
theorem test_rcc : [q 8, q (-2), q 0].map (fun x => (rccResult toy ⟨x, x, x, x⟩).y) = [q 2, q (-8), q 100] := by
  decide +kernel
/-- L2-7.8: a result that is not positive takes the negative bounds. -/
theorem test_rcc_zero : rccLane toy (q 0) = q (-1) := by decide
/-- R156: 16 gives 0.25. -/
theorem test_rsq : rsqResult toy (vec 16 0 0 0) = Vec4.splat (q 1) := by decide
/-- L2-7.11. -/
theorem test_exp : expResult toy (vec 3 0 0 0) = vec 8 8 8 8 := by decide
/-- L2-7.13. -/
theorem test_log : logResult toy (vec 8 0 0 0) = vec 3 3 3 3 := by decide
/-- L2-7.17 to L2-7.19. -/
theorem test_lit : [vec (-1) 4 0 2, vec 2 0 0 2, vec 1 2 0 3].map (litResult toy) =
    [vec 1 0 0 1, vec 1 2 0 1, vec 1 1 8 1] := by decide
/-- L2-2.11: swizzle, then negate. -/
theorem test_shape : shapeOperand toy ⟨.temp 3, true, ⟨.w, .z, .y, .x⟩⟩ (vec 1 2 3 4) = vec (-4) (-3) (-2) (-1) := by
  decide +kernel
/-- L2-3.9: the two partial-lane modes. -/
theorem test_partial_lanes : [PartialLaneMode.aligned, .packed].map (fun m => mergeLanes m 6 (vec 0 0 0 1) (vec 5 6 7 8)) =
    [vec 0 6 7 1, vec 0 5 6 1] := by decide
/-- L2-9.2. -/
theorem test_epilogue : epiloguePos toy (vec 2 2 2 1) (vec 1 1 1 0) (vec 2 6 12 1) = ⟨q 2, q 10, q 22, q 4⟩ := by decide
/-- L2-9.3: a zero scale leaves the axis undivided. -/
theorem test_epilogue_zero : epiloguePos toy (vec 0 0 0 0) (vec 1 1 1 0) (vec 3 5 7 2) = vec 4 8 12 2 := by decide
/-- R39. -/
theorem test_word_order : [WordOrder.littleEndian, .bigEndian].map (fun o => wordOfBytes o 0x1B 0x00 0x20 0x01) =
    [0x0120001B, 0x1B002001] := by decide

/-! ### One step on a small state -/

/-- Launch inputs: v{n} = (n, 20, 30, 40); every constant (3,3,3,3). -/
def inputs : Launch where
  v := ⟨#[vec 0 20 30 40, vec 1 20 30 40, vec 2 20 30 40, vec 3 20 30 40, vec 4 20 30 40, vec 5 20 30 40, vec 6 20 30 40,
    vec 7 20 30 40, vec 8 20 30 40, vec 9 20 30 40, vec 10 20 30 40, vec 11 20 30 40, vec 12 20 30 40, vec 13 20 30 40,
    vec 14 20 30 40, vec 15 20 30 40], rfl⟩
  c := Vector.replicate 192 (vec 3 3 3 3)
  clip := ⟨q 0, q 4⟩

/-- A vertex invocation of those inputs, about to run the slot given by its 128-bit value. -/
def at0 (a0 : BitVec 32) (w : Nat) : State :=
  { State.reset with vertex := { ExecState.atLaunch inputs with a0 := a0 } }.withFetchWord 128 w

/-- What a step leaves in a register, and the fault it takes. -/
def after (s : State) (f : ExecState → Vec4) : Option (Vec4 × Option Fault) :=
  match step s with
  | .next t => some (f t.vertex, t.vertex.fault)
  | .fault _ => none
  | .refused _ => none

/-- The fault a step takes. -/
def faultAfter (s : State) : Option Fault :=
  match step s with
  | .next t => t.vertex.fault
  | .fault _ => none
  | .refused _ => none

/-- R138. -/
theorem test_step_mov :
    after (at0 0 0x1F0000010836006C0020001B00000000) (fun e => e.temps[0]) = some (vec 0 20 30 40, none) := by decide
/-- R153, ILU alone. -/
theorem test_step_ilu_mov :
    after (at0 0 0x203F00010036006C0200041B00000000) (fun e => e.temps[3]) = some (vec 2 20 30 40, none) := by decide
/-- L2-3.4: the constant bank. -/
theorem test_step_const_write :
    after (at0 0 0x1000F0510836006C0020001B00000000) (fun e => e.consts[10]) = some (vec 0 20 30 40, none) := by
  decide +kernel
/-- R21: a write of oPos is one of R12. -/
theorem test_step_opos :
    after (at0 0 0x1000F8010836006C0020001B00000000) (fun e => e.temps[12]) = some (vec 0 20 30 40, none) := by decide
/-- L2-6.20: A0 = -4 reads c[96]. -/
theorem test_step_relative :
    after (at0 (-4) 0x1F4000030C36006C002C801B00000000) (fun e => e.temps[4]) = some (vec 3 3 3 3, none) := by
  decide +kernel
/-- L2-8.1: index 192. -/
theorem test_step_relative_fault :
    faultAfter (at0 1 0x1F1000030C36006C0037E01B00000000) = some (.relativeIndexOutOfRange 0 192) := by decide
/-- L2-8.2. -/
theorem test_step_read_r13 :
    faultAfter (at0 0 0x1F100001D436006C0020001B00000000) = some (.undeclaredRegister 0 13) := by decide
/-- L2-8.3. -/
theorem test_step_write_r13 :
    faultAfter (at0 0 0x1FD000010836006C0020001B00000000) = some (.undeclaredRegister 0 13) := by decide
/-- L2-8.4. -/
theorem test_step_read_c200 :
    faultAfter (at0 0 0x1F1000010C36006C0039001B00000000) = some (.constantIndexOutOfRange 0 200) := by decide
/-- L2-8.5. -/
theorem test_step_placeholder :
    faultAfter (at0 0 0x1000F8090836006C0020001B00000000) = some (.unmappedOutput 0 1) := by decide
/-- L2-8.6. -/
theorem test_step_arl_named :
    faultAfter (at0 0 0x1000F8190836006C01A0001B00000000) = some (.arlNamedOutput 0) := by decide
/-- L2-8.7. -/
theorem test_step_write_c200 :
    faultAfter (at0 0 0x1000F6410836006C0020001B00000000) = some (.constantIndexOutOfRange 0 200) := by decide
/-- L1-6: no slots, and a slot that is not final. -/
theorem test_malformed : (translateProgram [], translateProgram [slot 0x0020001B 0x0836006C 0x1F000000]) =
    (.error (.malformedProgram 0), .error (.malformedProgram 1)) := by decide
/-- L2-5.2. -/
theorem test_reserved_second : translateProgram
    [slot 0x0000001B 0x0036006C 0x10000000, slot 0x01E0001B 0x0036006C 0x10000001] = .error (.reservedMacOpcode 1 15) := by
  decide
/-- From reset with nothing placed, the first step takes MalformedProgram(0) (log entry 9). -/
theorem test_reset_step :
    step State.reset = .next { State.reset with trans := ⟨.fault, 0, [], some (.malformedProgram 0)⟩, stage := .ended } :=
  rfl
/-- A word whose operand C has class 0 takes its fault at the very next step. -/
theorem test_table_word_fault : (match step (State.reset.withFetchWord 128 0) with
    | .next t => t.trans.fault
    | .fault _ => none
    | .refused _ => none) = some (.invalidOperandClass 0 .c) := by decide

/-! ### Witnesses: the hypotheses of each statement can be met -/

/-- L2-3.8: MUL and RCP in one slot, the named-output stage on the MAC unit. -/
def pairSlot : SlotInstr :=
  ⟨.macMul (v 0) (v 0) ⟨3, 15, true, some (named 3 15)⟩, .iluRcp (sel (v 0) .x) ⟨3, 8, true, none⟩, true⟩

/-- The words of L2-3.8, L1-4a, L2-3.3, L2-4.1 and L2-2.10. -/
def w38 : Slot := slot 0x0440001B 0x0836106C 0x2F38F819
def w14a : Slot := slot 0x0420001B 0x0836012C 0x2F180001
def w33 : Slot := slot 0x05A0001B 0x0836006C 0x20180001
def w41 : Slot := slot 0x0000001B 0x0036006C 0x10000001
def w210 : Slot := slot 0x0E00001B 0x0036012C 0x200F0001
/-- L1-5 and the same with FINAL = 0. -/
def w15 : Slot := slot 0x0020001B 0x0836006C 0x1F000001
def w16 : Slot := slot 0x0020001B 0x0836006C 0x1F000000
def d15 : SlotInstr := ⟨.macMov (v 0) (out 0 15), .iluNop, true⟩

theorem witness_DecodeEncodeSlot : pairSlot.wf = true := by decide
theorem witness_DecodeEncodeInstr : pairSlot.mac.wf = true ∧ pairSlot.ilu.wf = true := by decide
theorem witness_FieldRoundTrip :
    (7 : Word).toNat < 2 ^ (descriptor .ilu).len ∧ (255 : Word).toNat < 2 ^ (descriptor .outAddress).len ∧
      FieldName.mac ≠ .ilu := by decide
theorem witness_ExtractorReadsBitWindow : 25 + 3 ≤ 32 ∧ 0 + 32 ≤ 32 ∧ 32 + 0 ≤ 32 := by decide
theorem witness_UnusedBitsNeverDecoded :
    let t : Slot := ⟨0xDEADBEEF, 0xF020001B, 0x0836006C, 0x1F000001⟩
    t ≠ w15 ∧ t.w1.extractLsb' 0 28 = w15.w1.extractLsb' 0 28 ∧ t.w2 = w15.w2 ∧ t.w3 = w15.w3 := by decide
theorem witness_DecodedSlotIsWellFormed : decodeSlot w38 = .ok pairSlot := by decide
theorem witness_DecodeFaultOrder_c : F (slot 0x0000001B 0x0036006C 0x00000001) .cMux = 0 := by decide
theorem witness_DecodeFaultOrder_reserved :
    let t := slot 0x01C0001B 0x0036006C 0x10000001
    F t .cMux ≠ 0 ∧ 13 < (F t .mac).toNat := by decide
theorem witness_DecodeFaultOrder_a :
    let t := slot 0x01A0001B 0x0036006C 0x10000001
    F t .cMux ≠ 0 ∧ (F t .mac).toNat = MacOp.arl.code.toNat ∧ MacOp.arl.usesA = true ∧ F t .aMux = 0 := by decide
theorem witness_DecodeFaultOrder_b :
    let t := slot 0x0040001B 0x0836006C 0x10000001
    F t .cMux ≠ 0 ∧ (F t .mac).toNat = MacOp.mul.code.toNat ∧ (MacOp.mul.usesA = true → F t .aMux ≠ 0) ∧
      MacOp.mul.usesB = true ∧ F t .bMux = 0 := by decide
theorem witness_DecodeFaultOrder_ok :
    F w38 .cMux ≠ 0 ∧ (F w38 .mac).toNat = MacOp.mul.code.toNat ∧ (MacOp.mul.usesA = true → F w38 .aMux ≠ 0) ∧
      (MacOp.mul.usesB = true → F w38 .bMux ≠ 0) := by decide
theorem witness_ConfigurationCheck : checkConfiguration [⟨.v, 1, 29, 4⟩] = .error (.fieldRangeViolation .v) := by decide
theorem witness_ConfigurationCheck_ok : ∀ d ∈ fieldTable, d.lo + d.len ≤ 32 := by decide
theorem witness_ScalarForcingOfOperandC_forced :
    decodeSlot w38 = .ok pairSlot ∧ pairSlot.ilu.opC = some (sel (v 0) .x) ∧ 2 ≤ (F w38 .ilu).toNat ∧
      (F w38 .ilu).toNat ≤ 6 := by decide
theorem witness_ScalarForcingOfOperandC_encoded : ∃ d, decodeSlot w210 = .ok d ∧
    d.ilu.opC = some ⟨.attr 0, false, ⟨.y, .x, .z, .w⟩⟩ ∧ 6 < (F w210 .ilu).toNat :=
  ⟨⟨.macNop, .iluLit ⟨.attr 0, false, ⟨.y, .x, .z, .w⟩⟩ (out 0 15), true⟩, by decide⟩
theorem witness_OperandReads : (12 : BitVec 4).toNat < 13 ∧ (15 : BitVec 4).toNat < 16 ∧ (191 : BitVec 8).toNat < 192 := by
  decide
theorem witness_OperandReads_relative : (at0 (-4) 0).vertex.a0.toInt + (100 : BitVec 8).toNat = (96 : Fin 192).val ∧
    (at0 1 0).vertex.a0.toInt + (190 : BitVec 8).toNat = (191 : Fin 192).val ∧
    (at0 (-5) 0).vertex.a0.toInt + (5 : BitVec 8).toNat = (0 : Fin 192).val := by decide
theorem witness_OperandReads_faults : ReadFaults (at0 1 0) (r 13) (.undeclaredRegister 0 13) ∧
    ReadFaults (at0 1 0) (c 192) (.constantIndexOutOfRange 0 192) ∧
    ReadFaults (at0 1 0) (cRel 191) (.relativeIndexOutOfRange 0 192) ∧
    ReadFaults (at0 (-1) 0) (cRel 0) (.relativeIndexOutOfRange 0 (-1)) ∧
    (r 13).wf = true ∧ (c 192).wf = true ∧ (cRel 191).wf = true ∧ (cRel 0).wf = true :=
  ⟨⟨by decide, rfl⟩, ⟨by decide, rfl⟩, ⟨by decide, rfl⟩, ⟨by decide, rfl⟩, rfl, rfl, rfl, rfl⟩
theorem witness_SwizzleThenNegate : readSource State.reset (r 3).src = .ok resetVec ∧ (r 3).neg = false ∧
    ({ r 3 with neg := true } : Operand).neg = true := ⟨rfl, rfl, rfl⟩

/-- An instruction of each operand shape: its operands can be read and its destinations written after reset. -/
theorem witness_MacMovCompletes : (∀ o ∈ (Instr.macMov (r 12) ⟨12, 15, false, some (named 12 1)⟩).args, Readable State.reset o) ∧
    ∀ w ∈ vecWrites (.macMov (r 12) ⟨12, 15, false, some (named 12 1)⟩), w.1.writable := by
  simp [Instr.args, Instr.opA, Instr.opB, Instr.opC, Readable, r, vecWrites, Instr.unit, Instr.out, macWrites, regWrite,
    outWrite, macMask, VecDest.writable, named]
theorem witness_MacPerLaneCompletes :
    (∀ o ∈ (Instr.macMad (r 1) (c 191) (v 15) (out 0 15)).args, Readable State.reset o) ∧
    ∀ w ∈ vecWrites (.macMad (r 1) (c 191) (v 15) (out 0 15)), w.1.writable := by
  simp [Instr.args, Instr.opA, Instr.opB, Instr.opC, Readable, r, c, v, vecWrites, Instr.unit, Instr.out, macWrites,
    regWrite, outWrite, macMask, VecDest.writable, out]
theorem witness_MacPerLaneCompletes_two :
    (∀ o ∈ (Instr.macMul (r 1) (c 191) (out 0 15)).args ++ (Instr.macAdd (r 1) (v 0) (out 0 15)).args ++
      (Instr.macMin (r 1) (r 2) (out 0 15)).args ++ (Instr.macMax (r 1) (r 2) (out 0 15)).args,
      Readable State.reset o) ∧
    ∀ w ∈ vecWrites (.macMul (r 1) (c 191) (out 0 15)) ++ vecWrites (.macAdd (r 1) (v 0) (out 0 15)) ++
      vecWrites (.macMin (r 1) (r 2) (out 0 15)) ++ vecWrites (.macMax (r 1) (r 2) (out 0 15)), w.1.writable := by
  simp [Instr.args, Instr.opA, Instr.opB, Instr.opC, Readable, r, c, v, vecWrites, Instr.unit, Instr.out, macWrites,
    regWrite, outWrite, macMask, VecDest.writable, out]
theorem witness_MacDotProductsComplete :
    (∀ o ∈ (Instr.macDp3 (r 1) (cRel 191) (out 0 8)).args ++ (Instr.macDph (r 1) (cRel 191) (out 0 8)).args ++
      (Instr.macDp4 (r 1) (cRel 191) (out 0 8)).args, Readable State.reset o) ∧
    ∀ w ∈ vecWrites (.macDp3 (r 1) (cRel 191) (out 0 8)) ++ vecWrites (.macDph (r 1) (cRel 191) (out 0 8)) ++
      vecWrites (.macDp4 (r 1) (cRel 191) (out 0 8)), w.1.writable := by
  simp [Instr.args, Instr.opA, Instr.opB, Instr.opC, Readable, r, cRel, vecWrites, Instr.unit, Instr.out, macWrites,
    regWrite, outWrite, macMask, VecDest.writable, out, State.reset, ExecState.atLaunch]
theorem witness_MacDstCompletes : (∀ o ∈ (Instr.macDst (r 1) (r 2) (out 7 15)).args, Readable State.reset o) ∧
    ∀ w ∈ vecWrites (.macDst (r 1) (r 2) (out 7 15)), w.1.writable := by
  simp [Instr.args, Instr.opA, Instr.opB, Instr.opC, Readable, r, vecWrites, Instr.unit, Instr.out, macWrites,
    regWrite, outWrite, macMask, VecDest.writable, out]
theorem witness_MacComparisonsComplete :
    (∀ o ∈ (Instr.macSlt (r 1) (r 2) (out 10 15)).args ++ (Instr.macSge (r 1) (r 2) (out 10 15)).args,
      Readable State.reset o) ∧
    ∀ w ∈ vecWrites (.macSlt (r 1) (r 2) (out 10 15)) ++ vecWrites (.macSge (r 1) (r 2) (out 10 15)), w.1.writable := by
  simp [Instr.args, Instr.opA, Instr.opB, Instr.opC, Readable, r, vecWrites, Instr.unit, Instr.out, macWrites,
    regWrite, outWrite, macMask, VecDest.writable, out]
theorem witness_ArlLoadsAddressRegister : evalOperand State.reset (v 1) = .ok (Vec4.splat Config.fp.zero) := rfl
theorem witness_ArlIntoNamedOutputFaults :
    Readable State.reset (v 1) ∧ exec (.macArl (v 1) none) State.reset = .next (loadA0 Config.fp.zero State.reset) :=
  ⟨trivial, rfl⟩
theorem witness_IluMovCompletes :
    (∀ o ∈ (Instr.iluMov (v 2) ⟨3, 15, false, some ⟨.const 191, 15⟩⟩).args, Readable State.reset o) ∧
    ∀ w ∈ vecWrites (.iluMov (v 2) ⟨3, 15, false, some ⟨.const 191, 15⟩⟩), w.1.writable := by
  simp [Instr.args, Instr.opA, Instr.opB, Instr.opC, Readable, v, vecWrites, Instr.unit, Instr.out, iluWrites, iluReg,
    regWrite, outWrite, VecDest.writable]
theorem witness_IluScalarOpsComplete :
    (∀ o ∈ (Instr.iluRcp (sel (r 5) .y) (out 6 8)).args ++ (Instr.iluRsq (sel (r 5) .w) (out 6 8)).args ++
      (Instr.iluExp (sel (r 5) .x) (out 6 8)).args ++ (Instr.iluLog (sel (r 5) .z) (out 6 8)).args,
      Readable State.reset o) ∧
    ∀ w ∈ vecWrites (.iluRcp (sel (r 5) .y) (out 6 8)) ++ vecWrites (.iluRsq (sel (r 5) .w) (out 6 8)) ++
      vecWrites (.iluExp (sel (r 5) .x) (out 6 8)) ++ vecWrites (.iluLog (sel (r 5) .z) (out 6 8)), w.1.writable := by
  simp [Instr.args, Instr.opA, Instr.opB, Instr.opC, Readable, r, sel, vecWrites, Instr.unit, Instr.out, iluWrites, iluReg,
    regWrite, outWrite, VecDest.writable, out]
theorem witness_IluRccCompletes : (∀ o ∈ (Instr.iluRcc (sel (r 5) .x) (out 6 15)).args, Readable State.reset o) ∧
    ∀ w ∈ vecWrites (.iluRcc (sel (r 5) .x) (out 6 15)), w.1.writable := by
  simp [Instr.args, Instr.opA, Instr.opB, Instr.opC, Readable, r, sel, vecWrites, Instr.unit, Instr.out, iluWrites, iluReg,
    regWrite, outWrite, VecDest.writable, out]
theorem witness_IluLitCompletes : (∀ o ∈ (Instr.iluLit (r 5) (out 7 15)).args, Readable State.reset o) ∧
    ∀ w ∈ vecWrites (.iluLit (r 5) (out 7 15)), w.1.writable := by
  simp [Instr.args, Instr.opA, Instr.opB, Instr.opC, Readable, r, vecWrites, Instr.unit, Instr.out, iluWrites, iluReg,
    regWrite, outWrite, VecDest.writable, out]

theorem witness_EmitterStatements : (∃ d, decodeSlot w38 = .ok d) ∧ F w38 .mac ≠ 0 ∧ F w38 .mac ≠ 13 ∧ F w38 .ilu ≠ 0 :=
  ⟨⟨pairSlot, by decide⟩, by decide⟩
theorem witness_EmitterStatements_nops :
    decodeSlot w41 = .ok ⟨.macNop, .iluNop, true⟩ ∧ F w41 .mac = 0 ∧ F w41 .ilu = 0 := by decide
theorem witness_EmitterStatements_arl : decodeSlot w33 =
    .ok ⟨.macArl (v 0) none, .iluRcp (sel (v 0) .x) ⟨1, 8, true, none⟩, true⟩ ∧ F w33 .mac = 13 := by decide
theorem witness_CoissuedRegisterOne : decodeSlot w14a =
    .ok ⟨.macMov (v 0) ⟨1, 15, true, none⟩, .iluRcp (sel (v 0) .y) ⟨1, 8, true, none⟩, true⟩ ∧ F w14a .mac ≠ 0 ∧
      F w14a .ilu ≠ 0 := by decide
theorem witness_AtMostThreeStatements : decodeSlot w38 = .ok pairSlot ∧ (slotStmts pairSlot).length = 3 := by decide
theorem witness_AtMostThreeStatements_nops :
    decodeSlot w41 = .ok ⟨.macNop, .iluNop, true⟩ ∧ F w41 .mac = 0 ∧ F w41 .ilu = 0 := by decide

/-- The second operand of MUL is R13: the first can be read. -/
theorem witness_UnreadableOperandFaults : stmtDests (.macMul (r 12) (r 13) (out 0 15)) ≠ [] ∧
    (Instr.macMul (r 12) (r 13) (out 0 15)).args = [r 12] ++ r 13 :: [] ∧ (∀ p ∈ [r 12], Readable State.reset p) ∧
    ReadFaults State.reset (r 13) (.undeclaredRegister 0 13) :=
  ⟨by decide, rfl, by simp [Readable, r], by decide, rfl⟩
theorem witness_UnreadableOperandFaults_none : stmtDests (.macMov (r 13) (out 0 0)) = [] := by decide
theorem witness_UnwritableDestinationFaults : (∀ o ∈ (Instr.macMov (v 0) (out 13 15)).args, Readable State.reset o) ∧
    vecWrites (.macMov (v 0) (out 13 15)) = [(.reg 13, 15)] ∧ ¬(VecDest.reg 13).writable := by
  refine ⟨?_, by decide, ?_⟩
  · simp [Instr.args, Instr.opA, Instr.opB, Instr.opC, Readable, v]
  · simp [VecDest.writable]
theorem witness_UnwritableDestinationFaults_second :
    let i := Instr.macMov (v 0) ⟨3, 15, false, some (named 1 8)⟩
    (∀ o ∈ i.args, Readable State.reset o) ∧ vecWrites i = [(.reg 3, 15), (.out (.named 1), 8)] ∧
      (VecDest.reg 3).writable ∧ ¬(VecDest.out (.named 1)).writable ∧
      exec (withoutNamed i) State.reset = .next (writeTemp 3 15 (Vec4.splat Config.fp.zero) State.reset) := by
  refine ⟨?_, by decide, by simp [VecDest.writable], by simp [VecDest.writable], rfl⟩
  simp [Instr.args, Instr.opA, Instr.opB, Instr.opC, Readable, v]
theorem witness_ExecFrame : exec (.macMov (v 0) (out 3 8)) State.reset =
      .next (writeTemp 3 8 (Vec4.splat Config.fp.zero) State.reset) ∧
    (∀ w ∈ vecWrites (.macMov (v 0) (out 3 8)), w.1.isTemp 3 = true → enabled w.2 3 = false) ∧
    (∀ w ∈ vecWrites (.macMov (v 0) (out 3 8)), w.1.isOut .oD0 = true → enabled w.2 0 = false) ∧
    (∀ w ∈ vecWrites (.macMov (v 0) (out 3 8)), w.1.isConst 191 = true → enabled w.2 0 = false) :=
  ⟨rfl, by decide, by decide, by decide⟩
theorem witness_OnlyArlWritesAddressRegister : (Instr.macMov (v 0) (out 3 8)).macOp ≠ some .arl ∧
    exec (.macMov (v 0) (out 3 8)) State.reset = .next (writeTemp 3 8 (Vec4.splat Config.fp.zero) State.reset) :=
  ⟨by decide, rfl⟩
/-- R71: boundary indices of the table. -/
theorem witness_NamedOutputTable :
    (((13 : BitVec 4) = 1 ∨ (13 : BitVec 4) = 2 ∨ 13 ≤ (13 : BitVec 4).toNat)) ∧
    ((12 : BitVec 4), OutReg.oT3) ∈ [(3, OutReg.oD0), (4, .oD1), (5, .oFog), (6, .oPts), (7, .oB0), (8, .oB1), (9, .oT0),
      (10, .oT1), (11, .oT2), (12, .oT3)] := by decide
/-- R111: lane z of mask yz is the second enabled lane; lane w is not enabled. -/
theorem witness_MaskedWrite :
    (1 : Fin 4).val = (List.finRange 4).countP (fun j => decide (j < 2) && (6 : Mask).getLsbD (3 - j.val)) ∧
    (6 : Mask).getLsbD (3 - 2) = true ∧
    (2 : Fin 4).val = (List.finRange 4).countP (fun j => decide (j < 3) && (6 : Mask).getLsbD (3 - j.val)) ∧
    (6 : Mask).getLsbD (3 - 3) = false := by decide

/-! Translator and run. -/

/-- A machine whose program is one slot, translated, with `u` of it to run next. -/
def oneSlot (w : Slot) (d : SlotInstr) (u : UnitName) : State :=
  { State.reset with program := [w], trans := ⟨.done, 0, [⟨0, w, d⟩], none⟩, stage := .executing, unit := u }

theorem transInv_oneSlot : TransInv [w15] ⟨.done, 0, [⟨0, w15, d15⟩], none⟩ := by
  have hd : decodeSlot w15 = .ok d15 := by decide
  refine ⟨fun j x h => ?_, fun j x h _ => ?_, rfl, rfl, _, rfl, rfl⟩
  · match j with
    | 0 =>
      cases h
      exact ⟨rfl, rfl, hd⟩
    | _ + 1 => simp at h
  · match j with
    | 0 => exact ⟨rfl, rfl⟩
    | _ + 1 => simp at h

theorem inv_oneSlot (u : UnitName) : (oneSlot w15 d15 u).Inv := by
  refine ⟨transInv_oneSlot, rfl, rfl, rfl, Nat.zero_le _, fun h => ?_⟩
  cases h

theorem inv_reset : State.reset.Inv := by
  refine ⟨⟨?_, ?_, ?_⟩, ?_⟩ <;> simp [State.reset, TransState.initial, RunInv]

theorem witness_StepKeepsInputs : (∃ t, step State.reset = .next t) ∧
    (oneSlot w15 d15 .ilu).stage = .executing ∧ ∃ t, step (oneSlot w15 d15 .ilu) = .next t :=
  ⟨⟨_, rfl⟩, rfl, _, rfl⟩
theorem witness_StepwiseScanIsTranslate :
    let s := { State.reset with program := [w16, w15] }
    s.stage = .translating ∧ s.trans = TransState.initial ∧
      translateProgram s.program =
        .ok [⟨0, w16, { d15 with final := false }⟩, ⟨1, w15, d15⟩] := by decide
theorem witness_StepwiseScanIsTranslate_fault : State.reset.stage = .translating ∧
    State.reset.trans = TransState.initial ∧ translateProgram State.reset.program = .error (.malformedProgram 0) := by decide
theorem witness_SlotsAfterFinalNeverRead : translateProgram [w15] = .ok [⟨0, w15, d15⟩] := by decide
theorem witness_NoFinalSlotIsMalformed : ∀ w ∈ [w16, w16], ∃ d, decodeSlot w = .ok d ∧ d.final = false := by
  have h : decodeSlot w16 = .ok { d15 with final := false } := by decide
  intro w hw
  have : w = w16 := by simpa using hw
  exact ⟨_, this ▸ h, rfl⟩
theorem witness_FirstDecodeFaultEndsTranslation :
    (∀ x ∈ [w16], ∃ d, decodeSlot x = .ok d ∧ d.final = false) ∧
    decodeSlot (slot 0x0020001B 0x0036006C 0x1F000001) = .error (.invalidOperandClass .a) ∧
    decodeSlot (slot 0x01E0001B 0x0036006C 0x10000001) = .error (.reservedMacOpcode 15) := by
  refine ⟨fun x hx => witness_NoFinalSlotIsMalformed x ?_, by decide, by decide⟩
  simpa using hx
theorem witness_LoadOutcomes_partial : (List.replicate 5 (0 : Word)).length % 4 ≠ 0 := by decide
theorem witness_LoadOutcomes_tooLong : (List.replicate (4 * (Config.maxSlots + 1)) (0 : Word)).length % 4 = 0 ∧
    Config.maxSlots < (List.replicate (4 * (Config.maxSlots + 1)) (0 : Word)).length / 4 := by
  rw [List.length_replicate]
  omega
theorem witness_LoadOutcomes_next : (List.replicate (4 * Config.maxSlots) (0 : Word)).length % 4 = 0 ∧
    (List.replicate (4 * Config.maxSlots) (0 : Word)).length / 4 ≤ Config.maxSlots := by
  rw [List.length_replicate]
  omega
theorem witness_TextOnlyWhenDone : (TransState.mk .done 0 [⟨0, w15, d15⟩] none).mode = .done ∧
    TransState.initial.mode ≠ .done := by decide
theorem witness_SwizzleSuffix : Swizzle.broadcast .w ≠ ⟨.x, .y, .z, .w⟩ ∧
    (Swizzle.mk .y .x .z .w ≠ ⟨.x, .y, .z, .w⟩ ∧ ¬(Sel.y = .x ∧ Sel.x = .z ∧ Sel.z = .w)) := by decide
theorem witness_StepRunsDecodedInstruction :
    (oneSlot w15 d15 .mac).Inv ∧ (oneSlot w15 d15 .ilu).Inv ∧ (oneSlot w15 d15 .mac).stage = .executing ∧
      (oneSlot w15 d15 .mac).slot < (oneSlot w15 d15 .mac).trans.body.length ∧
      (oneSlot w15 d15 .mac).program[(oneSlot w15 d15 .mac).slot]? = some w15 ∧ decodeSlot w15 = .ok d15 :=
  ⟨inv_oneSlot .mac, inv_oneSlot .ilu, rfl, by decide, rfl, by decide⟩
/-- The three ways such a step goes on: MAC to ILU, ILU to the next slot, and a fault. -/
theorem witness_StepRunsDecodedInstruction_ways :
    (∃ t, exec d15.mac (oneSlot w15 d15 .mac) = .next t ∧ t.stage = .executing) ∧
    (∃ t, exec d15.ilu (oneSlot w15 d15 .ilu) = .next t ∧ t.stage = .executing) ∧
    ∃ t, exec (.macMov (r 13) (out 1 15)) State.reset = .next t ∧ t.stage ≠ .executing :=
  ⟨⟨_, rfl, rfl⟩, ⟨_, rfl, rfl⟩, _, rfl, by decide⟩
theorem witness_FetchWordRunsItsInstruction :
    decodeSlot (slotOfNat (0x1F0000010836006C0020001B00000000 % 2 ^ 128)) = .ok d15 := by decide
theorem witness_StepKeepsInvariant : State.reset.Inv ∧ ∃ t, step State.reset = .next t := ⟨inv_reset, _, rfl⟩
theorem witness_HostCallsKeepInvariant : (∃ t, load [] 0 State.reset = .next t) ∧
    (oneSlot w15 d15 .mac).Inv ∧ ∃ t, launchVertex .zero (oneSlot w15 d15 .mac) = .next t := by
  refine ⟨⟨startTranslation [] 0 State.reset, ?_⟩, inv_oneSlot .mac, _, rfl⟩
  have h : checkConfiguration fieldTable = .ok () := by decide
  simp [load, h, slotsOfWords]
theorem witness_EveryRunEnds : State.reset.Inv ∧ (oneSlot w15 d15 .mac).Inv := ⟨inv_reset, inv_oneSlot .mac⟩
theorem witness_RunEndsInOneOfThreeWays_outputs :
    let s := { oneSlot w15 d15 .mac with stage := .ended, outputs := some (wiring State.reset.vertex) }
    s.Inv ∧ s.stage = .ended :=
  ⟨⟨transInv_oneSlot, .inr ⟨rfl, fun _ => rfl, fun _ => rfl⟩⟩, rfl⟩
theorem witness_RunEndsInOneOfThreeWays_translation :
    (takeTranslationFault (.malformedProgram 0) State.reset).Inv ∧
      (takeTranslationFault (.malformedProgram 0) State.reset).stage = .ended := by
  refine ⟨⟨⟨?_, ?_, ?_⟩, ?_⟩, rfl⟩ <;> simp [takeTranslationFault, RunInv, State.reset]
theorem witness_RunEndsInOneOfThreeWays_execution :
    (takeExecutionFault (.undeclaredRegister 0 13) (oneSlot w15 d15 .mac)).Inv ∧
      (takeExecutionFault (.undeclaredRegister 0 13) (oneSlot w15 d15 .mac)).stage = .ended := by
  refine ⟨⟨transInv_oneSlot, .inr ⟨rfl, ?_⟩⟩, rfl⟩
  simp [takeExecutionFault, oneSlot, State.reset]
theorem witness_PrologueDeclaresState : ({ oneSlot w15 d15 .mac with stage := .prologue } : State).stage = .prologue := rfl
/-- The second invocation finds another register content and another stage than the first. -/
theorem witness_InvocationsAreIndependent :
    let s := oneSlot w15 d15 .mac
    let s' := takeExecutionFault (.undeclaredRegister 0 13) (writeA0 7 s)
    s.program = s'.program ∧ s.trans = s'.trans ∧ s.params = s'.params ∧ s.versionTag = s'.versionTag ∧
      s.draws = s'.draws ∧
      (∃ t, launchVertex inputs s = .next t) ∧ ∃ t, launchVertex inputs s' = .next t :=
  ⟨rfl, rfl, rfl, rfl, rfl, ⟨_, rfl⟩, _, rfl⟩
theorem witness_EpilogueTransformsAndWires :
    let s := { oneSlot w15 d15 .mac with slot := 1 }
    s.stage = .executing ∧ s.slot = s.trans.body.length := by decide
theorem witness_OperandFromSlotFields_classes :
    F (slot 0x0000001B 0x0036006C 0x00000001) .cMux = 0 ∧ F w38 .cMux = 2 ∧ F (slot 0x004C001B 0x1436186C 0x1F200001) .aMux = 1 ∧
      F (slot 0x004C001B 0x1436186C 0x1F200001) .bMux = 3 := by decide
theorem witness_OperandFromSlotFields_forced :
    (2 ≤ (F w38 .ilu).toNat ∧ (F w38 .ilu).toNat ≤ 6) ∧ ¬(F w210 .ilu).toNat ≤ 6 := by decide
theorem witness_ConsumedOperandsInOrder : decodeSlot w38 = .ok pairSlot ∧ pairSlot.mac.args ≠ [] ∧ pairSlot.ilu.args ≠ [] := by
  decide
theorem witness_ConsumedOperandsInOrder_nops : decodeSlot w41 = .ok ⟨.macNop, .iluNop, false⟩ ∨
    decodeSlot w41 = .ok ⟨.macNop, .iluNop, true⟩ := by decide
/-- L1-5's word 1 from its four bytes, least significant first (R39). -/
theorem test_bytes_littleEndian : wordsOfBytes State.reset.params.wordOrder [0x1B, 0x00, 0x20, 0x00] = some [0x0020001B] := by
  decide
theorem test_bytes_no_whole_word : loadBytes [0x1B, 0x00, 0x20] 0 State.reset = .refused (.partialWord 3) := rfl
theorem witness_ByteImageLoads : ([0x1B, 0x00, 0x20] : List (BitVec 8)).length % 4 ≠ 0 ∧
    ([0x1B, 0x00, 0x20, 0x00] : List (BitVec 8)).length % 4 = 0 := by decide
theorem witness_ConfigurationIsFixed : (∃ t, step State.reset = .next t) ∧ (∃ t, load [] 7 State.reset = .next t) ∧
    (∃ t, loadBytes [] 7 State.reset = .next t) ∧ ∃ t, launchVertex .zero (oneSlot w15 d15 .mac) = .next t := by
  have h : checkConfiguration fieldTable = .ok () := by decide
  have hl : load [] 7 State.reset = .next (startTranslation [] 7 State.reset) := by simp [load, h, slotsOfWords]
  exact ⟨⟨_, rfl⟩, ⟨_, hl⟩, ⟨_, hl⟩, _, rfl⟩

end Sys2Proof.Tests
end

section
/-! SUPPORT. Proofs of the statements about the model's scope: the state after reset (R35), and a slot placed by
`State.withFetchWord` as the next to run (log entry 9). -/

namespace Sys2Proof.Machine

/-! ### What a decoded slot holds -/

/-- R120: what a slot that decodes answers: the instructions its fields name, and its FINAL field. -/
theorem decodeSlot_eq_ok {t : Slot} {d : SlotInstr} (h : decodeSlot t = .ok d) :
    readMac (readFields t) = some d.mac ∧ readIlu (readFields t) = d.ilu ∧
      d.final = decide ((readFields t).final = 1) := by
  rw [decodeSlot] at h
  rcases decodeFields_cases (readFields t) with
    ⟨-, e⟩ | ⟨-, -, e⟩ | ⟨op, -, hop, ⟨-, -, e⟩ | ⟨-, -, -, e⟩ | ⟨-, -, e⟩⟩ <;> rw [e] at h <;> cases h
  exact ⟨by simp [readMac, hop], rfl, rfl⟩

/-- R69, R152: each unit of a decoded slot holds the instruction that unit's fields name. -/
theorem readInstr_of_decodeSlot {t : Slot} {d : SlotInstr} (h : decodeSlot t = .ok d) (u : UnitName) :
    readInstr (readFields t) u = some (d.instr u) := by
  obtain ⟨hmac, hilu, -⟩ := decodeSlot_eq_ok h
  cases u with
  | mac => exact hmac
  | ilu => exact congrArg some hilu

/-- The closing slot decodes and is final. -/
theorem decodeSlot_endSlot : ∃ e, decodeSlot endSlot = .ok e ∧ e.final = true := ⟨⟨.macNop, .iluNop, true⟩, by decide⟩

/-! ### The scan of slots that decode -/

/-- R126: the scan ends at a final slot. -/
theorem translateFrom_final {w : Slot} {d : SlotInstr} (h : decodeSlot w = .ok d) (hf : d.final = true)
    (N k : Nat) (ws : List Slot) : translateFrom N k (w :: ws) = .ok [⟨k, w, d⟩] := by
  simp [translateFrom, h, hf]

/-- R124: the scan goes on past a slot that is not final. -/
theorem translateFrom_not_final {w : Slot} {d : SlotInstr} (h : decodeSlot w = .ok d) (hf : d.final = false)
    {N k : Nat} {ws : List Slot} {rest : List SlotRecord} (hr : translateFrom N (k + 1) ws = .ok rest) :
    translateFrom N k (w :: ws) = .ok (⟨k, w, d⟩ :: rest) := by
  simp [translateFrom, h, hf, hr]

/-! ### Placing one slot -/

/-- The program `placeSlot` makes of one slot: it is closed by `endSlot` where it is not final. -/
def placedProgram (t : Slot) : List Slot := if (readFields t).final = 1 then [t] else [t, endSlot]

/-- The placed program of a slot that decodes translates to a body that begins with that slot's record. -/
theorem translateProgram_placedProgram {t : Slot} {d : SlotInstr} (h : decodeSlot t = .ok d) :
    ∃ rest, translateProgram (placedProgram t) = .ok (⟨0, t, d⟩ :: rest) := by
  obtain ⟨-, -, hfinal⟩ := decodeSlot_eq_ok h
  by_cases hf : (readFields t).final = 1
  · rw [placedProgram, if_pos hf]
    exact ⟨[], translateFrom_final h (by simp [hfinal, hf]) ..⟩
  · obtain ⟨e, he, hend⟩ := decodeSlot_endSlot
    rw [placedProgram, if_neg hf]
    exact ⟨_, translateFrom_not_final h (by simpa [hfinal] using hf) (translateFrom_final he hend ..)⟩

/-- Where the placed program translates, `placeSlot` answers it translated, about to run the slot's leading unit. -/
theorem placeSlot_of_translated {t : Slot} {body : List SlotRecord}
    (h : translateProgram (placedProgram t) = .ok body) (s : State) :
    placeSlot t s = { startTranslation (placedProgram t) s.versionTag s with
      trans := ⟨.done, body.length - 1, body, none⟩, stage := .executing, unit := leadingUnit (readFields t) } := by
  unfold placedProgram at h
  simp only [placeSlot, h, placedProgram]

end Sys2Proof.Machine

namespace Sys2Proof.Proofs

open Sys2Proof.Machine

/-- Settles O34: every register of `ExecState.atLaunch` is a replicated `resetVec`, and the rest is written in
`State.reset`. -/
theorem resetState : Obligations.ResetState := by
  have htemps (n : Fin 13) : State.reset.vertex.temps[n] = resetVec := Vector.getElem_replicate ..
  have houts (o : OutReg) : outValue State.reset.vertex o = resetVec := Vector.getElem_replicate ..
  exact ⟨htemps, houts, rfl, rfl, rfl, rfl, rfl, rfl, rfl, rfl⟩

/-- Settles O48: the placed slot's record stands first in the translated body, and `readInstr` reads from the fields
the instruction that record holds for the leading unit. -/
theorem fetchWordRunsItsInstruction : Obligations.FetchWordRunsItsInstruction := by
  intro s w d h
  obtain ⟨rest, hbody⟩ := translateProgram_placedProgram h
  rw [State.withFetchWord, placeSlot_of_translated hbody]
  exact ⟨_, readInstr_of_decodeSlot h _, rfl, fetch_of_record (r := ⟨0, _, d⟩) rfl, rfl⟩

end Sys2Proof.Proofs
end

section
/-! SUPPORT. Proofs of the statements about the state: what an instruction and a step leave unchanged (R23 to R26, R30,
R48), the modes (R33), the independence of invocations (R183), R12 and oPos (R21), the invariant at reset, and the text of
a statement (R92, R109). -/

namespace Sys2Proof.Machine

/-! ### What an instruction can do -/

/-- s with another address register and draw counter, which ARL's load sets (R150); every other field is by definition that
of s. -/
def withA0Draws (v : BitVec 32) (k : Nat) (s : State) : State := { writeA0 v s with draws := k }

theorem loadA0_eq_withA0Draws (x : Lane) (s : State) :
    loadA0 x s = withA0Draws (arlResult Config.fp (Config.arlDraw s.draws) x) (s.draws + 1) s := rfl

theorem withA0Draws_self (s : State) : withA0Draws s.vertex.a0 s.draws s = s := rfl

/-- Every instruction does at most three things: a load of A0, which is ARL's alone, the writes of `vecWrites`, and the
taking of a fault. -/
theorem exec_next_cases {i : Instr} {s t : State} (h : exec i s = .next t) :
    ∃ v k u, (i.macOp ≠ some .arl → withA0Draws v k s = s) ∧ Untouched (vecWrites i) (withA0Draws v k s) u ∧
      (t = u ∨ ∃ f, t = takeExecutionFault f u) := by
  by_cases harl : i.macOp = some .arl
  · obtain ⟨a, named, rfl⟩ : ∃ a named, i = .macArl a named := by cases i <;> simp_all [Instr.macOp]
    obtain ⟨f, -, e⟩ | ⟨x, -, -, e⟩ | ⟨x, f, -, -, e⟩ := exec_arl a named s <;> rw [e] at h <;> cases h
    · exact ⟨_, _, s, fun _ => withA0Draws_self s, untouched_refl _ s, .inr ⟨f, rfl⟩⟩
    · exact ⟨_, _, _, fun hn => absurd harl hn, untouched_refl _ _, .inl (loadA0_eq_withA0Draws ..)⟩
    · exact ⟨_, _, _, fun hn => absurd harl hn, untouched_refl _ _, .inr ⟨f, by rw [loadA0_eq_withA0Draws]⟩⟩
  · obtain ⟨value, -, e, -⟩ := exec_vector i harl
    rw [e] at h
    obtain ⟨u, hu, hkeep⟩ | ⟨f, u, hu, hkeep⟩ := runStmts_untouched value (vecWrites i) s <;> rw [hu] at h <;> cases h
    · exact ⟨_, _, _, fun _ => withA0Draws_self s, hkeep, .inl rfl⟩
    · exact ⟨_, _, u, fun _ => withA0Draws_self s, hkeep, .inr ⟨f, rfl⟩⟩

/-! ### What every step keeps -/

/-- R26, R30, R48: t has the slot stream, the launch inputs, the configuration and the version tag of s. -/
def SameInputs (s t : State) : Prop :=
  t.program = s.program ∧ t.launch = s.launch ∧ t.params = s.params ∧ t.versionTag = s.versionTag

/-- R16, R25: t has the input attributes, the clip range and the translation of s. -/
def SameBody (s t : State) : Prop :=
  t.vertex.attrs = s.vertex.attrs ∧ t.vertex.clip = s.vertex.clip ∧ t.trans = s.trans

theorem exec_keeps {i : Instr} {s t : State} (h : exec i s = .next t) : SameInputs s t ∧ SameBody s t := by
  obtain ⟨v, k, u, -, ⟨⟨hprogram, htrans, hlaunch, hparams, htag, -⟩, -, -, hattrs, hclip, -⟩, ht⟩ := exec_next_cases h
  have hu : SameInputs s u ∧ SameBody s u := ⟨⟨hprogram, hlaunch, hparams, htag⟩, hattrs, hclip, htrans⟩
  obtain rfl | ⟨f, rfl⟩ := ht
  · exact hu
  · exact hu

theorem acceptSlot_sameInputs (w : Slot) (d : SlotInstr) (s : State) : SameInputs s (acceptSlot w d s) := by
  unfold acceptSlot
  split
  · exact ⟨rfl, rfl, rfl, rfl⟩
  · exact ⟨rfl, rfl, rfl, rfl⟩

theorem scanSlot_sameInputs (s : State) : SameInputs s (scanSlot s) := by
  obtain ⟨-, e⟩ | ⟨w, d, -, -, e⟩ | ⟨w, d, -, -, e⟩ := scanSlot_cases s <;> rw [e]
  · exact ⟨rfl, rfl, rfl, rfl⟩
  · exact ⟨rfl, rfl, rfl, rfl⟩
  · exact acceptSlot_sameInputs w d s

theorem scanStep_sameInputs (s : State) : SameInputs s (scanStep s) := by
  unfold scanStep
  split
  · exact scanSlot_sameInputs s
  · exact ⟨rfl, rfl, rfl, rfl⟩
  · exact ⟨rfl, rfl, rfl, rfl⟩

/-- R118, R136: moving on changes the place of the next instruction only. -/
theorem advance_eq (s : State) : ∃ k u, advance s = { s with slot := k, unit := u } := by
  unfold advance
  split
  · exact ⟨s.slot, .ilu, rfl⟩
  · exact ⟨s.slot + 1, .mac, rfl⟩
  · exact ⟨s.slot, s.unit, rfl⟩
  · exact ⟨s.slot, s.unit, rfl⟩
  · exact ⟨s.slot, s.unit, rfl⟩

/-- R132, R134: a step of a running body is the epilogue, or an instruction and the move past it. -/
theorem bodyStep_next_cases {s t : State} (h : bodyStep s = .next t) :
    t = epilogueStep s ∨ ∃ i u, exec i s = .next u ∧ t = advance u := by
  cases hf : fetch s with
  | none =>
    rw [bodyStep_past ((fetch_eq_none_iff s).1 hf)] at h
    cases h
    exact .inl rfl
  | some i =>
    obtain ⟨u, hu⟩ := exec_answers_next i s
    rw [bodyStep_inside hf hu] at h
    cases h
    exact .inr ⟨i, u, hu, rfl⟩

theorem bodyStep_keeps {s t : State} (h : bodyStep s = .next t) : SameInputs s t ∧ SameBody s t := by
  obtain rfl | ⟨i, u, hu, rfl⟩ := bodyStep_next_cases h
  · exact ⟨⟨rfl, rfl, rfl, rfl⟩, rfl, rfl, rfl⟩
  · obtain ⟨k, v, e⟩ := advance_eq u
    have hkept := exec_keeps hu
    rw [e]
    exact hkept

/-- R135, R177: a run that has ended has no next state. -/
theorem endStep_ne_next (s t : State) : endStep s ≠ .next t := by
  unfold endStep
  split <;> nofun

theorem step_sameInputs {s t : State} (h : step s = .next t) : SameInputs s t := by
  cases hs : s.stage with
  | translating =>
    rw [step_translating hs] at h
    cases h
    exact scanStep_sameInputs s
  | prologue =>
    rw [step_prologue hs] at h
    cases h
    exact ⟨rfl, rfl, rfl, rfl⟩
  | executing =>
    rw [step_executing hs] at h
    exact (bodyStep_keeps h).1
  | ended =>
    rw [step_ended hs] at h
    exact absurd h (endStep_ne_next s t)

/-! ### What the host's calls answer -/

/-- R52, R80: the one field table passes its check. -/
theorem checkConfiguration_fieldTable : checkConfiguration fieldTable = .ok () := by decide

/-- R121: a load that is accepted starts a translation. -/
theorem load_eq_next {words : List Word} {tag : Word} {s t : State} (h : load words tag s = .next t) :
    ∃ P, t = startTranslation P tag s := by
  simp only [load, checkConfiguration_fieldTable] at h
  split at h
  · cases h
  · rename_i P _
    split at h <;> cases h
    exact ⟨P, rfl⟩

/-- R39: a load from bytes that is accepted is a load from words. -/
theorem loadBytes_eq_next {bytes : List (BitVec 8)} {tag : Word} {s t : State} (h : loadBytes bytes tag s = .next t) :
    ∃ words, load words tag s = .next t := by
  unfold loadBytes at h
  split at h
  · cases h
  · exact ⟨_, h⟩

/-- R190: a launch that is accepted sets the launch inputs and leads to the prologue. -/
theorem launchVertex_eq_next {L : Launch} {s t : State} (h : launchVertex L s = .next t) :
    t = { s with launch := L, stage := .prologue, outputs := none } := by
  unfold launchVertex at h
  split at h <;> cases h
  rfl

/-- R183, R187: the state the prologue leaves depends on nothing of the vertex invocation before it. -/
theorem prologueStep_congr {s s' : State} (hprogram : s.program = s'.program) (htrans : s.trans = s'.trans)
    (hlaunch : s.launch = s'.launch) (hparams : s.params = s'.params) (htag : s.versionTag = s'.versionTag)
    (hdraws : s.draws = s'.draws) : prologueStep s = prologueStep s' := by
  simp only [prologueStep, hprogram, htrans, hlaunch, hparams, htag, hdraws]

/-! ### Text -/

/-- R60: the letters of each of the 16 masks. -/
theorem maskLetters_eq (m : Mask) : maskLetters m =
    ["", "w", "z", "zw", "y", "yw", "yz", "yzw", "x", "xw", "xz", "xzw", "xy", "xyw", "xyz", "xyzw"].getD m.toNat "" := by
  revert m
  decide

/-- R71: the name of each of the 16 named outputs. -/
theorem namedText_eq (j : BitVec 4) : namedText j =
    ["oPos", "???", "???", "oD0", "oD1", "oFog", "oPts", "oB0", "oB1", "oT0", "oT1", "oT2", "oT3", "???", "???",
      "???"].getD j.toNat "" := by
  revert j
  decide

end Sys2Proof.Machine

namespace Sys2Proof.Proofs

open Sys2Proof.Machine

/-- Settles O31: by `exec_next_cases`, a load of A0 and a fault taken change no framed field, and the writes between them
only the lanes their masks enable. -/
theorem execFrame : Obligations.ExecFrame := by
  intro i s t h
  obtain ⟨v, k, u, -, ⟨⟨hprogram, htrans, hlaunch, hparams, htag, hstage, hslot, hunit, houtputs⟩, -, -, hattrs, hclip,
    hfault, htemps, houts, hconsts⟩, ht⟩ := exec_next_cases h
  obtain rfl | ⟨f, rfl⟩ := ht <;>
    refine ⟨htemps, houts, hconsts, hattrs, hclip, hprogram, htrans, hlaunch, hparams, htag, hslot, hunit, houtputs, ?_⟩
  · exact .inl ⟨hstage, hfault⟩
  · exact .inr ⟨rfl, rfl⟩

/-- Settles O32: no load of A0 comes first, no statement's write reaches A0 or the draw counter, and no fault does. -/
theorem onlyArlWritesAddressRegister : Obligations.OnlyArlWritesAddressRegister := by
  intro i s t h harl
  obtain ⟨v, k, u, hload, hkeep, ht⟩ := exec_next_cases h
  rw [hload harl] at hkeep
  obtain ⟨-, hdraws, ha0, -⟩ := hkeep
  obtain rfl | ⟨f, rfl⟩ := ht
  · exact ⟨ha0, hdraws⟩
  · exact ⟨ha0, hdraws⟩

/-- Settles O33, by the stage of the run. -/
theorem stepKeepsInputs : Obligations.StepKeepsInputs := by
  intro s t h
  obtain ⟨hprogram, hlaunch, hparams, htag⟩ := step_sameInputs h
  refine ⟨hprogram, hlaunch, hparams, htag, fun hs => ?_⟩
  rw [step_executing hs] at h
  exact (bodyStep_keeps h).2

/-- Settles O44: each call that is accepted answers a state with the modes of the state it was made in. -/
theorem configurationIsFixed : Obligations.ConfigurationIsFixed := by
  have hload {words tag} {s t : State} (h : load words tag s = .next t) : t.params = s.params ∧ t.versionTag = tag := by
    obtain ⟨P, rfl⟩ := load_eq_next h
    exact ⟨rfl, rfl⟩
  refine ⟨fun p => by simp only [configure, checkConfiguration_fieldTable], fun s t => ⟨fun h => ?step, fun _ _ => hload,
    fun bytes tag h => ?loadBytes, fun L => ⟨rfl, rfl⟩, fun L h => ?launch⟩⟩
  case step =>
    obtain ⟨-, -, hparams, htag⟩ := step_sameInputs h
    exact ⟨hparams, htag⟩
  case loadBytes =>
    obtain ⟨words, hwords⟩ := loadBytes_eq_next h
    exact hload hwords
  case launch =>
    rw [launchVertex_eq_next h]
    exact ⟨rfl, rfl⟩

/-- Settles O55: both launches lead to the prologue, whose first step leaves one and the same state. -/
theorem invocationsAreIndependent : Obligations.InvocationsAreIndependent := by
  intro s s' t t' L n hprogram htrans hparams htag hdraws h h'
  obtain rfl := launchVertex_eq_next h
  obtain rfl := launchVertex_eq_next h'
  rw [core_run_next (step_prologue rfl), core_run_next (step_prologue rfl)]
  exact congrArg (Sys2Proof.core.run n) (prologueStep_congr hprogram htrans rfl hparams htag hdraws)

/-- Settles O35: either write is `writeTemp 12`, and the read and `position` are of temporary 12. -/
theorem positionIsRegisterTwelve : Obligations.PositionIsRegisterTwelve := by
  intro m r s
  have hmerged : position (writeTemp 12 m r s).vertex = mergeLanes s.params.partialLane m (position s.vertex) r := by
    simp [position]
  exact ⟨writeTemp 12 m r s, rfl, rfl, rfl, hmerged⟩

/-- Settles O49: the body is empty and the scan stands at slot 0. -/
theorem invariantAtReset : Obligations.InvariantAtReset := by
  have hbody (j : Nat) (r : SlotRecord) : TransState.initial.body[j]? ≠ some r := by simp [TransState.initial]
  have htrans : TransInv [] TransState.initial :=
    ⟨fun j r h => absurd h (hbody j r), fun j r h => absurd h (hbody j r), rfl, Nat.le_refl 0, rfl⟩
  exact ⟨htrans, rfl, rfl⟩

/-- Settles O59: the mask letters and the output names are `maskLetters_eq` and `namedText_eq`; the rest is how the texts
are put together. -/
theorem statementTextIsCanonical : Obligations.StatementTextIsCanonical := by
  refine ⟨fun neg z => ⟨fun n => rfl, fun n => rfl, fun a => rfl, fun a => rfl⟩,
    fun m => ⟨rfl, fun n => ?reg, fun j => ?named, fun a => ?const⟩, fun u op e m os => rfl⟩
  case reg => exact congrArg ("R" ++ Nat.repr n.toNat ++ "." ++ ·) (maskLetters_eq m)
  case named => exact congrArg₂ (fun name letters => name ++ "." ++ letters) (namedText_eq j) (maskLetters_eq m)
  case const => exact congrArg ("c[" ++ Nat.repr a.toNat ++ "]." ++ ·) (maskLetters_eq m)

end Sys2Proof.Proofs
end

section
/-! SUPPORT. Proofs of the statements about memory: loading a program from words (R37, R121, R173, R186) and from a byte
image (R39). -/

namespace Sys2Proof.Machine

/-! ### What a load answers -/

/-- R37: a word sequence that makes no whole number of slots is refused (log entry 4). -/
theorem load_of_no_slots {words : List Word} (h : slotsOfWords words = none) (tag : Word) (s : State) :
    load words tag s = .refused (.partialSlot words.length) := by
  simp only [load, checkConfiguration_fieldTable, h]

/-- R121, R173: slots beyond the limit are refused; any others start a translation. -/
theorem load_of_slots {words : List Word} {P : List Slot} (h : slotsOfWords words = some P) (tag : Word) (s : State) :
    load words tag s =
      if Config.maxSlots < P.length then .refused (.programTooLong P.length) else .next (startTranslation P tag s) := by
  simp only [load, checkConfiguration_fieldTable, h]

/-- R39: a byte image that makes no whole number of words is refused (log entry 22). -/
theorem loadBytes_of_no_words {bytes : List (BitVec 8)} {s : State}
    (h : wordsOfBytes s.params.wordOrder bytes = none) (tag : Word) :
    loadBytes bytes tag s = .refused (.partialWord bytes.length) := by
  simp only [loadBytes, h]

/-- R39: a byte image of whole words is loaded as its words. -/
theorem loadBytes_of_words {bytes : List (BitVec 8)} {words : List Word} {s : State}
    (h : wordsOfBytes s.params.wordOrder bytes = some words) (tag : Word) :
    loadBytes bytes tag s = load words tag s := by
  simp only [loadBytes, h]

end Sys2Proof.Machine

namespace Sys2Proof.Proofs

open Sys2Proof.Machine

/-- Settles O42: `slotsOfWords_spec` says which slots the words make, and `load` compares their number with the limit. -/
theorem loadOutcomes : Obligations.LoadOutcomes := by
  intro words tag s
  obtain ⟨hpartial, hwhole⟩ := slotsOfWords_spec words
  refine ⟨fun h => load_of_no_slots (hpartial h) tag s, fun h hlimit => ?tooLong, fun h hlimit => ?accepted⟩
  case tooLong =>
    obtain ⟨P, hP, hlength, -⟩ := hwhole h
    rw [← hlength] at hlimit ⊢
    rw [load_of_slots hP, if_pos hlimit]
  case accepted =>
    obtain ⟨P, hP, hlength, hslots⟩ := hwhole h
    rw [← hlength] at hlimit
    have hload : load words tag s = .next (startTranslation P tag s) := by
      rw [load_of_slots hP, if_neg (Nat.not_lt.2 hlimit)]
    exact ⟨_, hload, rfl, rfl, rfl, rfl, rfl, rfl, hlength, hslots⟩

/-- Settles O43: `wordsOfBytes_spec` says which words the bytes make, and `wordOfBytes_toNat` which number each word is. -/
theorem byteImageLoads : Obligations.ByteImageLoads := by
  intro bytes tag s
  obtain ⟨hpartial, hwhole⟩ := wordsOfBytes_spec s.params.wordOrder bytes
  refine ⟨fun h => loadBytes_of_no_words (hpartial h) tag, fun h => ?whole⟩
  case whole =>
    obtain ⟨words, hwords, hlength, hbytes⟩ := hwhole h
    refine ⟨words, loadBytes_of_words hwords tag, hlength, fun k w b0 b1 b2 b3 hw h0 h1 h2 h3 => ?_⟩
    have hword : w = wordOfBytes s.params.wordOrder b0 b1 b2 b3 := hbytes k w b0 b1 b2 b3 hw h0 h1 h2 h3
    rw [hword]
    exact wordOfBytes_toNat ..

end Sys2Proof.Proofs
end

section
/-! SUPPORT. What the encoding can hold, said as propositions (R56, R61, R90, R105, R113), and the parts of an
instruction: its opcode, its operands, its emitter's fields (R69, R99, R114, R152). -/

namespace Sys2Proof

/-! ### Well-formedness as propositions -/

/-- R56: the operand is one a slot with V field `v` and remapped CONST field and A0X flag `c` can hold. -/
def Operand.Fits (o : Operand) (v : BitVec 4) (c : BitVec 8 × Bool) : Prop :=
  (∀ n ∈ o.attrField, n = v) ∧ ∀ p ∈ o.constField, p = c

theorem unused_fits (v : BitVec 4) (c : BitVec 8 × Bool) : Operand.unused.Fits v c := ⟨nofun, nofun⟩

theorem allSame_iff_head {α : Type} [DecidableEq α] (l : List α) (z : α) :
    allSame l = true ↔ ∀ x ∈ l, x = l.head?.getD z := by
  cases l with
  | nil => simp [allSame]
  | cons y ys => simp [allSame]

theorem allSame_of_forall_eq {α : Type} [DecidableEq α] {l : List α} {v : α} (h : ∀ x ∈ l, x = v) :
    allSame l = true := by
  cases l with
  | nil => rfl
  | cons y ys =>
    obtain ⟨rfl, hys⟩ := List.forall_mem_cons.1 h
    simpa [allSame] using hys

/-- R56: operands that fit one choice of the shared fields agree on them. -/
theorem sharedFields_of_fits {os : List Operand} {v : BitVec 4} {c : BitVec 8 × Bool} (h : ∀ o ∈ os, o.Fits v c) :
    sharedFields os = true := by
  refine (Bool.and_eq_true _ _).mpr
    ⟨allSame_of_forall_eq (v := v) fun n hn => ?_, allSame_of_forall_eq (v := c) fun p hp => ?_⟩
  · obtain ⟨o, ho, hno⟩ := List.mem_flatMap.1 hn
    exact (h o ho).1 n hno
  · obtain ⟨o, ho, hpo⟩ := List.mem_flatMap.1 hp
    exact (h o ho).2 p hpo

/-- R56: operands that agree on the shared fields fit the first values among them. -/
theorem fits_of_sharedFields {os : List Operand} (h : sharedFields os = true) {o : Operand} (ho : o ∈ os) :
    o.Fits ((os.flatMap Operand.attrField).head?.getD 0) ((os.flatMap Operand.constField).head?.getD (0, false)) := by
  obtain ⟨hv, hc⟩ := (Bool.and_eq_true _ _).mp h
  exact ⟨fun n hn => (allSame_iff_head _ 0).1 hv n (List.mem_flatMap_of_mem ho hn),
    fun p hp => (allSame_iff_head _ (0, false)).1 hc p (List.mem_flatMap_of_mem ho hp)⟩

theorem sharedFields_singleton (o : Operand) : sharedFields [o] = true := by
  obtain ⟨src, neg, swz⟩ := o
  cases src <;> rfl

theorem agree_iff {α : Type} [DecidableEq α] (x y : Option α) :
    agree x y = true ↔ ∀ a b, x = some a → y = some b → a = b := by
  cases x <;> cases y <;> simp [agree]

/-- What `Instr.wf` checks (`instr_wf_iff`). -/
structure Instr.Encodable (i : Instr) : Prop where
  operands : ∀ o ∈ i.args, o.wf = true
  shared : sharedFields i.args = true
  named : ∀ n, i.named = some n → n.mask ≠ 0
  forced : ∀ op c, i.iluOp = some op → i.opC = some c → op.scalarForcing = true → c.isBroadcast = true

theorem instr_forcedWf_iff (i : Instr) : i.forcedWf = true ↔
    ∀ op c, i.iluOp = some op → i.opC = some c → op.scalarForcing = true → c.isBroadcast = true := by
  unfold Instr.forcedWf
  cases i.iluOp <;> cases i.opC <;> simp [or_iff_not_imp_left]

theorem instr_wf_iff (i : Instr) : i.wf = true ↔ i.Encodable := by
  have hnamed : i.named.all NamedOut.wf = true ↔ ∀ n, i.named = some n → n.mask ≠ 0 := by
    simp [Option.all_eq_true, NamedOut.wf]
  simp only [Instr.wf, Bool.and_eq_true, List.all_eq_true, hnamed, instr_forcedWf_iff, and_assoc]
  exact ⟨fun ⟨ho, hs, hn, hf⟩ => ⟨ho, hs, hn, hf⟩, fun ⟨ho, hs, hn, hf⟩ => ⟨ho, hs, hn, hf⟩⟩

/-- What `SlotInstr.wf` checks (`slotInstr_wf_iff`). -/
structure SlotInstr.Encodable (d : SlotInstr) : Prop where
  macUnit : d.mac.unit = .mac
  iluUnit : d.ilu.unit = .ilu
  mac : d.mac.Encodable
  ilu : d.ilu.Encodable
  shared : sharedFields d.args = true
  operandC : ∀ a b, d.mac.opC = some a → d.ilu.opC = some b → a = b
  outReg : ∀ o p, d.mac.out = some o → d.ilu.out = some p → o.reg = p.reg
  macPaired : ∀ o, d.mac.out = some o → o.paired = decide (d.ilu ≠ .iluNop)
  iluPaired : ∀ o, d.ilu.out = some o → o.paired = decide (d.mac ≠ .macNop)
  oneNamed : d.mac.named = none ∨ d.ilu.named = none

theorem slotInstr_wf_iff (d : SlotInstr) : d.wf = true ↔ d.Encodable := by
  have hreg : agree (d.mac.out.map Out.reg) (d.ilu.out.map Out.reg) = true ↔
      ∀ o p, d.mac.out = some o → d.ilu.out = some p → o.reg = p.reg := by
    cases d.mac.out <;> cases d.ilu.out <;> simp [agree]
  have hpaired (x : Option Out) (b : Bool) :
      agree (x.map Out.paired) (some b) = true ↔ ∀ o, x = some o → o.paired = b := by
    cases x <;> simp [agree]
  have hnamed : (!(d.mac.named.isSome && d.ilu.named.isSome)) = true ↔ d.mac.named = none ∨ d.ilu.named = none := by
    cases d.mac.named <;> cases d.ilu.named <;> simp
  simp only [SlotInstr.wf, Bool.and_eq_true, decide_eq_true_eq, instr_wf_iff, hreg, hpaired, hnamed,
    agree_iff d.mac.opC, and_assoc]
  constructor
  · rintro ⟨hmacUnit, hiluUnit, hmac, hilu, hshared, hc, hr, hmacPaired, hiluPaired, hone⟩
    exact ⟨hmacUnit, hiluUnit, hmac, hilu, hshared, hc, hr, hmacPaired, hiluPaired, hone⟩
  · rintro ⟨hmacUnit, hiluUnit, hmac, hilu, hshared, hc, hr, hmacPaired, hiluPaired, hone⟩
    exact ⟨hmacUnit, hiluUnit, hmac, hilu, hshared, hc, hr, hmacPaired, hiluPaired, hone⟩

/-! ### The parts of an instruction -/

theorem mem_args_iff (i : Instr) (o : Operand) : o ∈ i.args ↔ i.opA = some o ∨ i.opB = some o ∨ i.opC = some o := by
  simp [Instr.args]

/-- The instruction's named-output stage is that of the emitter's fields. -/
theorem named_of_out {i : Instr} {o : Out} (h : i.out = some o) : i.named = o.named := by
  cases i <;> cases h <;> rfl

theorem exists_macOp_of_unit {i : Instr} (h : i.unit = .mac) : ∃ op, i.macOp = some op := by
  cases i <;> cases h <;> exact ⟨_, rfl⟩

theorem exists_iluOp_of_unit {i : Instr} (h : i.unit = .ilu) : ∃ op, i.iluOp = some op := by
  cases i <;> cases h <;> exact ⟨_, rfl⟩

/-- R152: every ILU opcode but NOP consumes operand C. -/
theorem exists_opC_of_iluOp {i : Instr} {op : IluOp} (hop : i.iluOp = some op) (hne : op ≠ .nop) :
    ∃ c, i.opC = some c := by
  cases i <;> cases hop
  case iluNop => exact absurd rfl hne
  all_goals exact ⟨_, rfl⟩

theorem iluOp_of_mac {i : Instr} (h : i.unit = .mac) : i.iluOp = none := by
  cases i <;> cases h <;> rfl

/-- R69, R114: an instruction of the MAC unit is put together again from its opcode and its parts. -/
theorem macInstr_eq_of_parts {i : Instr} {op : MacOp} {a b c : Operand} {o : Out} (hop : i.macOp = some op)
    (ha : i.opA.getD a = a) (hb : i.opB.getD b = b) (hc : i.opC.getD c = c) (ho : i.out.getD o = o)
    (hn : o.named = i.named) : macInstr op a b c o = i := by
  rw [← ha, ← hb, ← hc]
  cases i <;> cases hop
  case macNop => rfl
  case macArl x n => exact congrArg (Instr.macArl x) hn
  all_goals rw [← ho]; rfl

/-- R152: an instruction of the ILU is put together again from its opcode and its parts. -/
theorem iluInstr_eq_of_parts {i : Instr} {op : IluOp} {c : Operand} {o : Out} (hop : i.iluOp = some op)
    (hc : i.opC.getD c = c) (ho : i.out.getD o = o) : iluInstr op c o = i := by
  rw [← hc, ← ho]
  cases i <;> cases hop <;> rfl

@[simp] theorem macInstr_unit (op : MacOp) (a b c : Operand) (o : Out) : (macInstr op a b c o).unit = .mac := by
  cases op <;> rfl

@[simp] theorem iluInstr_unit (op : IluOp) (c : Operand) (o : Out) : (iluInstr op c o).unit = .ilu := by
  cases op <;> rfl

@[simp] theorem iluInstr_iluOp (op : IluOp) (c : Operand) (o : Out) : (iluInstr op c o).iluOp = some op := by
  cases op <;> rfl

/-- R69: operand A stands in the MAC instructions of the opcodes that consume it. -/
theorem macInstr_opA (op : MacOp) (a b c : Operand) (o : Out) :
    (macInstr op a b c o).opA = if op.usesA then some a else none := by
  cases op <;> rfl

/-- R69: operand B stands in the MAC instructions of the opcodes that consume it. -/
theorem macInstr_opB (op : MacOp) (a b c : Operand) (o : Out) :
    (macInstr op a b c o).opB = if op.usesB then some b else none := by
  cases op <;> rfl

theorem macInstr_opC_eq {op : MacOp} {a b c x : Operand} {o : Out} (h : (macInstr op a b c o).opC = some x) : x = c := by
  cases op <;> cases h <;> rfl

theorem macInstr_out_eq {op : MacOp} {a b c : Operand} {o p : Out} (h : (macInstr op a b c o).out = some p) : p = o := by
  cases op <;> cases h <;> rfl

theorem macInstr_named_eq {op : MacOp} {a b c : Operand} {o : Out} {n : NamedOut}
    (h : (macInstr op a b c o).named = some n) : o.named = some n := by
  cases op with
  | nop => cases h
  | _ => exact h

theorem macInstr_eq_nop_iff (op : MacOp) (a b c : Operand) (o : Out) : macInstr op a b c o = .macNop ↔ op = .nop := by
  cases op <;> simp [macInstr]

theorem iluInstr_opA (op : IluOp) (c : Operand) (o : Out) : (iluInstr op c o).opA = none := by
  cases op <;> rfl

theorem iluInstr_opB (op : IluOp) (c : Operand) (o : Out) : (iluInstr op c o).opB = none := by
  cases op <;> rfl

theorem iluInstr_opC_eq {op : IluOp} {c x : Operand} {o : Out} (h : (iluInstr op c o).opC = some x) : x = c := by
  cases op <;> cases h <;> rfl

theorem iluInstr_out_eq {op : IluOp} {c : Operand} {o p : Out} (h : (iluInstr op c o).out = some p) : p = o := by
  cases op <;> cases h <;> rfl

theorem iluInstr_named_eq {op : IluOp} {c : Operand} {o : Out} {n : NamedOut}
    (h : (iluInstr op c o).named = some n) : o.named = some n := by
  cases op with
  | nop => cases h
  | _ => exact h

theorem iluInstr_eq_nop_iff (op : IluOp) (c : Operand) (o : Out) : iluInstr op c o = .iluNop ↔ op = .nop := by
  cases op <;> simp [iluInstr]

end Sys2Proof
end

section
/-! SUPPORT. Proof that decoding the words of a well-formed slot gives it back: what the decoder answers on the fields of a
slot (R82 to R90, R113 to R120), and what the encoder writes in each of them (R52 to R70). -/

namespace Sys2Proof

/-! ### Field values -/

/-- R86 with conflict C1: the formula is the identity on every code. -/
theorem remapConst_eq_self (raw : BitVec 8) : remapConst raw = raw := by
  revert raw
  decide

@[simp] theorem sel_ofBits_bits (s : Sel) : Sel.ofBits s.bits = s := by
  cases s <;> rfl

/-- R58: selector value s names lane s. -/
theorem sel_ofBits_lane (b : BitVec 2) : (Sel.ofBits b).lane.val = b.toNat := by
  revert b
  decide

@[simp] theorem bitOf_eq_one_iff (b : Bool) : bitOf b = 1#1 ↔ b = true := by
  cases b <;> decide

theorem iluOp_ofBits_code (op : IluOp) : IluOp.ofBits op.code = op := by
  cases op <;> rfl

/-- R68, R90: the scalar-forcing opcodes are the field values 2 to 6. -/
theorem scalarForcing_ofBits_iff (b : BitVec 3) :
    (IluOp.ofBits b).scalarForcing = true ↔ 2 ≤ b.toNat ∧ b.toNat ≤ 6 := by
  revert b
  decide

theorem iluOp_ofBits_eq_nop_iff (b : BitVec 3) : IluOp.ofBits b = .nop ↔ b = 0 := by
  revert b
  decide

theorem macOp_eq_nop_iff {b : BitVec 4} {op : MacOp} (h : MacOp.ofBits b = some op) : op = .nop ↔ b = 0 := by
  rw [← macOp_code_of_ofBits b op h]
  cases op <;> decide

/-! ### The decoder on the fields of a slot -/

/-- R88: the answer of `decode_operand` by the class field. -/
theorem decodeOperand_eq (f : Fields) (x : OperandName) :
    decodeOperand f x = if f.mux x = 0 then .error (.invalidOperandClass x) else .ok (f.operand x) := by
  by_cases h : f.mux x = 0 <;> simp [decodeOperand, operand_wf, h]

/-- R113 to R120: a slot with a defined MAC opcode and no operand of class 0 decodes. -/
theorem decodeFields_of_wf {f : Fields} {op : MacOp} (hop : MacOp.ofBits f.mac = some op)
    (hwf : ∀ x, (f.operand x).wf = true) : decodeFields f =
      .ok ⟨macInstr op (f.operand .a) (f.operand .b) (f.operand .c) (f.out .mac),
        iluInstr (IluOp.ofBits f.ilu) (f.operand .c) (f.out .ilu), decide (f.final = 1)⟩ := by
  simp [decodeFields, decodeOperand, checkIfUsed, hop, hwf]

/-- R113 to R120: what a slot that decodes answers, and what its decoding checked. -/
theorem decodeFields_eq_ok {f : Fields} {d : SlotInstr} (h : decodeFields f = .ok d) :
    ∃ op, MacOp.ofBits f.mac = some op ∧ (op.usesA = true → (f.operand .a).wf = true) ∧
      (op.usesB = true → (f.operand .b).wf = true) ∧ (f.operand .c).wf = true ∧
      d = ⟨macInstr op (f.operand .a) (f.operand .b) (f.operand .c) (f.out .mac),
        iluInstr (IluOp.ofBits f.ilu) (f.operand .c) (f.out .ilu), decide (f.final = 1)⟩ := by
  simp only [operand_wf, decide_eq_true_eq]
  rcases decodeFields_cases f with
    ⟨-, e⟩ | ⟨-, -, e⟩ | ⟨op, hc, hop, ⟨-, -, e⟩ | ⟨-, -, -, e⟩ | ⟨ha, hb, e⟩⟩ <;> rw [e] at h <;> cases h
  exact ⟨op, hop, ha, hb, hc, rfl⟩

/-- R56: every operand of a slot fits that slot's V, CONST and A0X fields. -/
theorem operand_fits (f : Fields) (x : OperandName) :
    (f.operand x).Fits f.v (remapConst f.const, decide (f.a0x = 1)) := by
  unfold Operand.Fits Operand.attrField Operand.constField Fields.operand Fields.source
  split_ifs <;> simp

/-- R84, R85, R87: an operand whose class and index are in its fields, and which fits the shared ones, is read back. -/
theorem source_eq_of_fits {f : Fields} {x : OperandName} {o : Operand} (hmux : f.mux x = o.src.muxBits)
    (hreg : f.regNum x = o.src.regBits) (hfits : o.Fits f.v (remapConst f.const, decide (f.a0x = 1)))
    (hwf : o.wf = true) : f.source x = o.src := by
  obtain ⟨src, neg, swz⟩ := o
  obtain ⟨hv, hc⟩ := hfits
  cases src with
  | temp n => simpa [Fields.source, hmux, Source.muxBits, Source.regBits] using hreg
  | attr n => simpa [Fields.source, hmux, Source.muxBits] using (hv n (List.mem_singleton_self _)).symm
  | const a rel =>
    obtain ⟨ha, hrel⟩ := Prod.ext_iff.1 (hc (a, rel) (List.mem_singleton_self _))
    simp only [Fields.source, hmux, Source.muxBits]
    exact congrArg₂ Source.const ha.symm hrel.symm
  | invalid y => cases hwf

/-- R90: operand C under a scalar-forcing ILU opcode is broadcast. -/
theorem operandC_isBroadcast {f : Fields} (h : (IluOp.ofBits f.ilu).scalarForcing = true) :
    (f.operand .c).isBroadcast = true := by
  simp [Operand.isBroadcast, Fields.operand, Fields.swizzle, h, Swizzle.broadcast]

/-- R105: the named-output stage of a unit, and where it is. -/
theorem namedOut_eq_some_iff (f : Fields) (u : UnitName) (n : NamedOut) :
    f.namedOut u = some n ↔ f.outMux = u.sel ∧ f.outOMask ≠ 0 ∧ n = ⟨f.outDest, f.outOMask⟩ := by
  unfold Fields.namedOut
  split_ifs with h
  · exact ⟨fun e => ⟨h.1, h.2, (Option.some.inj e).symm⟩, fun ⟨_, _, e⟩ => congrArg some e.symm⟩
  · exact ⟨nofun, fun ⟨hsel, hmask, _⟩ => absurd ⟨hsel, hmask⟩ h⟩

/-! ### The fields the encoder writes -/

/-- R113: the operand whose fields stand in a field group of the slot: the consumed one, else R0 (log entry 10). -/
def SlotInstr.operandAt (d : SlotInstr) : OperandName → Operand
  | .a => d.mac.opA.getD .unused
  | .b => d.mac.opB.getD .unused
  | .c => d.operandC

theorem getD_opC_operandC (d : SlotInstr) : d.mac.opC.getD d.operandC = d.operandC := by
  unfold SlotInstr.operandC
  cases d.mac.opC <;> rfl

theorem mem_slotArgs_iff (d : SlotInstr) (o : Operand) : o ∈ d.args ↔ o ∈ d.mac.args ∨ o ∈ d.ilu.args :=
  List.mem_append

/-- Log entry 10: a field group holds an operand the slot consumes, or R0. -/
theorem operandAt_mem_or_unused (d : SlotInstr) (x : OperandName) :
    d.operandAt x ∈ d.args ∨ d.operandAt x = .unused := by
  simp only [mem_slotArgs_iff, mem_args_iff]
  cases x with
  | a => cases h : d.mac.opA <;> simp [SlotInstr.operandAt, h]
  | b => cases h : d.mac.opB <;> simp [SlotInstr.operandAt, h]
  | c => cases h : d.mac.opC <;> cases h' : d.ilu.opC <;> simp [SlotInstr.operandAt, SlotInstr.operandC, h, h']

theorem fieldsOf_mux (d : SlotInstr) (x : OperandName) : (fieldsOf d).mux x = (d.operandAt x).src.muxBits := by
  cases x <;> rfl

/-- R55: the two parts of operand C's index make it whole again. -/
theorem index_eq_high_or_low (n : BitVec 4) :
    (((n.extractLsb' 2 2).setWidth 4 <<< 2) ||| (n.extractLsb' 0 2).setWidth 4) = n := by
  revert n
  decide

theorem fieldsOf_regNum (d : SlotInstr) (x : OperandName) : (fieldsOf d).regNum x = (d.operandAt x).src.regBits := by
  cases x with
  | a => rfl
  | b => rfl
  | c => exact index_eq_high_or_low _

theorem fieldsOf_neg (d : SlotInstr) (x : OperandName) : (fieldsOf d).neg x = (d.operandAt x).neg := by
  cases x <;> simp [Fields.neg, fieldsOf, SlotInstr.operandAt]

theorem fieldsOf_encodedSwizzle (d : SlotInstr) (x : OperandName) :
    (fieldsOf d).encodedSwizzle x = (d.operandAt x).swz := by
  cases x <;> simp [Fields.encodedSwizzle, fieldsOf, SlotInstr.operandAt]

/-- R56, R86: the shared fields the encoder writes are the ones the first operands that have them name. -/
theorem fieldsOf_shared (d : SlotInstr) :
    (fieldsOf d).v = (d.args.flatMap Operand.attrField).head?.getD 0 ∧
      (remapConst (fieldsOf d).const, decide ((fieldsOf d).a0x = 1)) =
        (d.args.flatMap Operand.constField).head?.getD (0, false) := by
  refine ⟨rfl, ?_⟩
  rw [remapConst_eq_self]
  cases h : (d.args.flatMap Operand.constField).head? <;> simp [fieldsOf, h]

theorem fieldsOf_ofBits_mac {d : SlotInstr} {op : MacOp} (h : d.mac.macOp = some op) :
    MacOp.ofBits (fieldsOf d).mac = some op := by
  simp [fieldsOf, h, macOp_ofBits_code]

theorem fieldsOf_ofBits_ilu {d : SlotInstr} {op : IluOp} (h : d.ilu.iluOp = some op) :
    IluOp.ofBits (fieldsOf d).ilu = op := by
  simp [fieldsOf, h, iluOp_ofBits_code]

theorem fieldsOf_final (d : SlotInstr) : decide ((fieldsOf d).final = 1) = d.final := by
  simp [fieldsOf]

/-- R62, R64, R86: the destination of the slot's named-output stage is read back. -/
theorem fieldsOf_outDest {d : SlotInstr} {n : NamedOut} (h : d.named = some n) : (fieldsOf d).outDest = n.dest := by
  obtain ⟨dest, mask⟩ := n
  cases dest with
  | const a => simp [Fields.outDest, fieldsOf, h, OutDest.orbBits, OutDest.addressBits, remapConst_eq_self]
  | named j => simp [Fields.outDest, fieldsOf, h, OutDest.orbBits, OutDest.addressBits]

/-- R105: a slot with no named-output stage has none for either unit. -/
theorem fieldsOf_namedOut_none {d : SlotInstr} (h : d.named = none) (u : UnitName) : (fieldsOf d).namedOut u = none := by
  simp [Fields.namedOut, fieldsOf, h]

/-- R105: the slot's named-output stage is read back in the unit OUT_MUX selects, and in no other. -/
theorem fieldsOf_namedOut_some {d : SlotInstr} {n : NamedOut} (h : d.named = some n) (hmask : n.mask ≠ 0)
    (u : UnitName) : (fieldsOf d).namedOut u = if bitOf d.ilu.named.isSome = u.sel then some n else none := by
  have hm : (fieldsOf d).outOMask = n.mask := by simp [fieldsOf, h]
  have hsel : (fieldsOf d).outMux = bitOf d.ilu.named.isSome := rfl
  simp only [Fields.namedOut, fieldsOf_outDest h, hm, hsel, ne_eq, hmask, not_false_eq_true, and_true]

/-! ### Reading back what the encoder writes for a well-formed slot -/

section
variable {d : SlotInstr} (h : d.Encodable)
include h

theorem operandAt_wf (x : OperandName) : (d.operandAt x).wf = true := by
  rcases operandAt_mem_or_unused d x with hx | hx
  · exact ((mem_slotArgs_iff d _).1 hx).elim (h.mac.operands _) (h.ilu.operands _)
  · rw [hx]; rfl

theorem operandAt_fits (x : OperandName) :
    (d.operandAt x).Fits (fieldsOf d).v (remapConst (fieldsOf d).const, decide ((fieldsOf d).a0x = 1)) := by
  obtain ⟨hv, hc⟩ := fieldsOf_shared d
  rw [hv, hc]
  rcases operandAt_mem_or_unused d x with hx | hx
  · exact fits_of_sharedFields h.shared hx
  · rw [hx]; exact unused_fits _ _

/-- R113: the ILU's operand is the slot's operand C. -/
theorem operandC_eq_of_ilu {c : Operand} (hc : d.ilu.opC = some c) : d.operandC = c := by
  unfold SlotInstr.operandC
  split
  · exact h.operandC _ _ ‹_› hc
  · rw [hc]; rfl

/-- R90: under a scalar-forcing ILU opcode the slot's operand C is already broadcast. -/
theorem operandC_isBroadcast_of_forced {op : IluOp} (hop : d.ilu.iluOp = some op) (hforced : op.scalarForcing = true) :
    d.operandC.isBroadcast = true := by
  obtain ⟨c, hc⟩ : ∃ c, d.ilu.opC = some c := exists_opC_of_iluOp hop (by rintro rfl; cases hforced)
  rw [operandC_eq_of_ilu h hc]
  exact h.ilu.forced op c hop hc hforced

/-- R89, R90: the swizzle of every field group is read back, the forced one too. -/
theorem fieldsOf_swizzle (x : OperandName) : (fieldsOf d).swizzle x = (d.operandAt x).swz := by
  unfold Fields.swizzle
  split_ifs with hforced
  · obtain ⟨rfl, hforced⟩ := hforced
    obtain ⟨op, hop⟩ := exists_iluOp_of_unit h.iluUnit
    rw [fieldsOf_ofBits_ilu hop] at hforced
    have hbroadcast := operandC_isBroadcast_of_forced h hop hforced
    simp only [Operand.isBroadcast, decide_eq_true_eq] at hbroadcast
    simpa [SlotInstr.operandAt, fieldsOf] using hbroadcast.symm
  · exact fieldsOf_encodedSwizzle d x

/-- R82: every operand is read back from its field group and the shared fields. -/
theorem fieldsOf_operand (x : OperandName) : (fieldsOf d).operand x = d.operandAt x := by
  have hsource : (fieldsOf d).source x = (d.operandAt x).src :=
    source_eq_of_fits (fieldsOf_mux d x) (fieldsOf_regNum d x) (operandAt_fits h x) (operandAt_wf h x)
  rw [Fields.operand, hsource, fieldsOf_neg, fieldsOf_swizzle h]

/-- R105: each unit's named-output stage is read back. -/
theorem fieldsOf_namedOut (u : UnitName) : (fieldsOf d).namedOut u = (d.instr u).named := by
  cases hmac : d.mac.named with
  | some n =>
    have hilu : d.ilu.named = none := h.oneNamed.resolve_left (by simp [hmac])
    rw [fieldsOf_namedOut_some (n := n) (by simp [SlotInstr.named, hmac]) (h.mac.named n hmac)]
    cases u <;> simp [SlotInstr.instr, hmac, hilu, bitOf, UnitName.sel]
  | none =>
    cases hilu : d.ilu.named with
    | some n =>
      rw [fieldsOf_namedOut_some (n := n) (by simp [SlotInstr.named, hmac, hilu]) (h.ilu.named n hilu)]
      cases u <;> simp [SlotInstr.instr, hmac, hilu, bitOf, UnitName.sel]
    | none =>
      rw [fieldsOf_namedOut_none (by simp [SlotInstr.named, hmac, hilu])]
      cases u <;> simp [SlotInstr.instr, hmac, hilu]

/-- R101: the MAC unit sees a partner exactly where the slot has one. -/
theorem fieldsOf_ilu_ne_zero : (fieldsOf d).ilu ≠ 0 ↔ d.ilu ≠ .iluNop := by
  have hunit := h.iluUnit
  simp only [fieldsOf]
  cases hi : d.ilu <;> simp [hi, Instr.unit, Instr.iluOp, IluOp.code] at hunit ⊢

/-- R102: the ILU sees a partner exactly where the slot has one. -/
theorem fieldsOf_mac_ne_zero : (fieldsOf d).mac ≠ 0 ↔ d.mac ≠ .macNop := by
  have hunit := h.macUnit
  simp only [fieldsOf]
  cases hi : d.mac <;> simp [hi, Instr.unit, Instr.macOp, MacOp.code] at hunit ⊢

/-- R99: what the emitter reads for the MAC unit is read back. -/
theorem fieldsOf_out_mac {o : Out} (ho : d.mac.out = some o) : (fieldsOf d).out .mac = o := by
  have hnamed : (fieldsOf d).namedOut .mac = o.named := (fieldsOf_namedOut h .mac).trans (named_of_out ho)
  have hreg : (fieldsOf d).outR = o.reg := by simp [fieldsOf, SlotInstr.outReg, ho]
  have hmask : (fieldsOf d).outMacMask = o.mask := by simp [fieldsOf, ho]
  simp only [Fields.out, hnamed, hreg, hmask, fieldsOf_ilu_ne_zero h, ← h.macPaired o ho]

/-- R99: what the emitter reads for the ILU is read back. -/
theorem fieldsOf_out_ilu {o : Out} (ho : d.ilu.out = some o) : (fieldsOf d).out .ilu = o := by
  have hnamed : (fieldsOf d).namedOut .ilu = o.named := (fieldsOf_namedOut h .ilu).trans (named_of_out ho)
  have hreg : (fieldsOf d).outR = o.reg := by
    cases hmac : d.mac.out with
    | none => simp [fieldsOf, SlotInstr.outReg, hmac, ho]
    | some p => simpa [fieldsOf, SlotInstr.outReg, hmac] using h.outReg p o hmac ho
  have hmask : (fieldsOf d).outIluMask = o.mask := by simp [fieldsOf, ho]
  simp only [Fields.out, hnamed, hreg, hmask, fieldsOf_mac_ne_zero h, ← h.iluPaired o ho]

end

/-- R52 to R120: the fields of a well-formed slot decode to it. -/
theorem decodeFields_fieldsOf {d : SlotInstr} (h : d.Encodable) : decodeFields (fieldsOf d) = .ok d := by
  obtain ⟨mop, hmop⟩ := exists_macOp_of_unit h.macUnit
  obtain ⟨iop, hiop⟩ := exists_iluOp_of_unit h.iluUnit
  have hmac : macInstr mop (d.operandAt .a) (d.operandAt .b) d.operandC ((fieldsOf d).out .mac) = d.mac := by
    refine macInstr_eq_of_parts hmop ?_ ?_ (getD_opC_operandC d) ?_ (fieldsOf_namedOut h .mac)
    · cases ha : d.mac.opA <;> simp [SlotInstr.operandAt, ha]
    · cases hb : d.mac.opB <;> simp [SlotInstr.operandAt, hb]
    · cases ho : d.mac.out with
      | none => rfl
      | some o => exact (fieldsOf_out_mac h ho).symm
  have hilu : iluInstr iop d.operandC ((fieldsOf d).out .ilu) = d.ilu := by
    refine iluInstr_eq_of_parts hiop ?_ ?_
    · cases hc : d.ilu.opC with
      | none => rfl
      | some c => exact (operandC_eq_of_ilu h hc).symm
    · cases ho : d.ilu.out with
      | none => rfl
      | some o => exact (fieldsOf_out_ilu h ho).symm
  rw [decodeFields_of_wf (fieldsOf_ofBits_mac hmop) fun x => by rw [fieldsOf_operand h]; exact operandAt_wf h x]
  simp only [fieldsOf_operand h, fieldsOf_ofBits_ilu hiop, fieldsOf_final]
  exact congrArg Except.ok (congrArg₂ (SlotInstr.mk · · d.final) hmac hilu)

end Sys2Proof

namespace Sys2Proof.Proofs

/-- Settles O1: the encoder's words hold the fields of the slot (`readFields_toSlot`), and these decode to it. -/
theorem decodeEncodeSlot : Obligations.DecodeEncodeSlot := by
  intro d h
  rw [decodeSlot, encodeSlot, readFields_toSlot]
  exact decodeFields_fieldsOf ((slotInstr_wf_iff d).1 h)

end Sys2Proof.Proofs
end

section
/-! SUPPORT. Proofs of the statements about encoding: the slot made for one instruction (R67, R68), the bits no field holds
(R54), and what every decoded slot passes (R56, R61, R90, R105, R113). -/

namespace Sys2Proof

/-! ### The slot made for one instruction -/

/-- R56: operands taken from ones that agree on the shared fields, or R0, agree on them. -/
theorem sharedFields_of_mem_or_unused {os ps : List Operand} (h : sharedFields os = true)
    (hps : ∀ o ∈ ps, o ∈ os ∨ o = .unused) : sharedFields ps = true := by
  exact sharedFields_of_fits fun o ho => (hps o ho).elim (fits_of_sharedFields h) fun e => e ▸ unused_fits _ _

/-- Log entry 10: an instruction of the MAC unit stands beside a MOV that writes nothing where it is paired, else beside a
NOP. -/
theorem alone_of_mac {i : Instr} (hu : i.unit = .mac) :
    (∃ o, i.out = some o ∧ o.paired = true ∧
      i.alone = ⟨i, .iluMov (i.opC.getD .unused) ⟨o.reg, 0, true, none⟩, false⟩) ∨
    ((∀ o, i.out = some o → o.paired = false) ∧ i.alone = ⟨i, .iluNop, false⟩) := by
  cases ho : i.out with
  | none => exact .inr ⟨nofun, by simp [Instr.alone, hu, ho]⟩
  | some o =>
    cases hp : o.paired with
    | true => exact .inl ⟨o, rfl, hp, by simp [Instr.alone, hu, ho, hp]⟩
    | false => exact .inr ⟨by rintro _ ⟨⟩; exact hp, by simp [Instr.alone, hu, ho, hp]⟩

/-- Log entry 10: an instruction of the ILU stands beside a MOV that writes nothing where it is paired, else beside a NOP. -/
theorem alone_of_ilu {i : Instr} (hu : i.unit = .ilu) :
    (∃ o, i.out = some o ∧ o.paired = true ∧ i.alone = ⟨.macMov .unused ⟨o.reg, 0, true, none⟩, i, false⟩) ∨
    ((∀ o, i.out = some o → o.paired = false) ∧ i.alone = ⟨.macNop, i, false⟩) := by
  cases ho : i.out with
  | none => exact .inr ⟨nofun, by simp [Instr.alone, hu, ho]⟩
  | some o =>
    cases hp : o.paired with
    | true => exact .inl ⟨o, rfl, hp, by simp [Instr.alone, hu, ho, hp]⟩
    | false => exact .inr ⟨by rintro _ ⟨⟩; exact hp, by simp [Instr.alone, hu, ho, hp]⟩

theorem alone_instr (i : Instr) : i.alone.instr i.unit = i := by
  cases hu : i.unit with
  | mac => obtain ⟨_, -, -, e⟩ | ⟨-, e⟩ := alone_of_mac hu <;> rw [e] <;> rfl
  | ilu => obtain ⟨_, -, -, e⟩ | ⟨-, e⟩ := alone_of_ilu hu <;> rw [e] <;> rfl

theorem macNop_encodable : Instr.macNop.Encodable :=
  ⟨fun _ h => (nomatch h), rfl, fun _ h => (nomatch h), fun _ _ h => (nomatch h)⟩

theorem iluNop_encodable : Instr.iluNop.Encodable :=
  ⟨fun _ h => (nomatch h), rfl, fun _ h => (nomatch h), fun _ _ _ h => (nomatch h)⟩

/-- R105: a MOV of R0 with no named-output stage is well formed. -/
theorem macMov_unused_encodable {o : Out} (h : o.named = none) : (Instr.macMov .unused o).Encodable :=
  ⟨fun _ hx => List.mem_singleton.1 hx ▸ rfl, rfl, fun _ hn => (nomatch h.symm.trans hn), fun _ _ hop => (nomatch hop)⟩

/-- R88, R105: an ILU MOV of an operand of class R, V or C with no named-output stage is well formed. -/
theorem iluMov_encodable {c : Operand} {o : Out} (hc : c.wf = true) (h : o.named = none) :
    (Instr.iluMov c o).Encodable := by
  have hargs : ∀ x ∈ (Instr.iluMov c o).args, x = c := fun x hx => List.mem_singleton.1 hx
  refine ⟨fun x hx => hargs x hx ▸ hc, sharedFields_singleton c, fun _ hn => (nomatch h.symm.trans hn), ?forced⟩
  case forced =>
    rintro op x ⟨⟩ - hforced
    cases hforced

theorem ne_nop_of_out {i : Instr} {o : Out} (h : i.out = some o) : i ≠ .macNop ∧ i ≠ .iluNop :=
  ⟨fun e => (nomatch (congrArg Instr.out e).symm.trans h), fun e => (nomatch (congrArg Instr.out e).symm.trans h)⟩

/-- R101, R102: the slot made for a well-formed instruction is well formed. -/
theorem alone_encodable {i : Instr} (h : i.Encodable) : i.alone.Encodable := by
  cases hu : i.unit with
  | mac =>
    obtain ⟨o, ho, hp, e⟩ | ⟨hp, e⟩ := alone_of_mac hu <;> rw [e]
    · have hc : i.opC.getD .unused ∈ i.args ∨ i.opC.getD .unused = .unused := by
        cases hc : i.opC <;> simp [mem_args_iff, hc]
      have hwf : (i.opC.getD .unused).wf = true := by
        obtain hmem | hunused := hc
        · exact h.operands _ hmem
        · rw [hunused]; rfl
      exact {
        macUnit := hu
        iluUnit := rfl
        mac := h
        ilu := iluMov_encodable hwf rfl
        shared := sharedFields_of_mem_or_unused h.shared fun x hx =>
          (List.mem_append.1 hx).elim .inl fun hx => List.mem_singleton.1 hx ▸ hc
        operandC := by rintro a b ha ⟨⟩; rw [ha]; rfl
        outReg := by rintro p q hp' ⟨⟩; cases ho.symm.trans hp'; rfl
        macPaired := fun p hp' => by cases ho.symm.trans hp'; simp [hp]
        iluPaired := by rintro p ⟨⟩; simp [(ne_nop_of_out ho).1]
        oneNamed := .inr rfl }
    · exact {
        macUnit := hu
        iluUnit := rfl
        mac := h
        ilu := iluNop_encodable
        shared := sharedFields_of_mem_or_unused h.shared fun x hx =>
          .inl ((List.mem_append.1 hx).elim id (nomatch ·))
        operandC := fun _ _ _ h => nomatch h
        outReg := fun _ _ _ h => nomatch h
        macPaired := fun o ho => by simp [hp o ho]
        iluPaired := fun _ h => nomatch h
        oneNamed := .inr rfl }
  | ilu =>
    obtain ⟨o, ho, hp, e⟩ | ⟨hp, e⟩ := alone_of_ilu hu <;> rw [e]
    · exact {
        macUnit := rfl
        iluUnit := hu
        mac := macMov_unused_encodable rfl
        ilu := h
        shared := sharedFields_of_mem_or_unused h.shared fun x hx =>
          (List.mem_append.1 hx).elim (fun hx => .inr (List.mem_singleton.1 hx)) .inl
        operandC := fun _ _ h => nomatch h
        outReg := by rintro p q ⟨⟩ hq; cases ho.symm.trans hq; rfl
        macPaired := by rintro p ⟨⟩; simp [(ne_nop_of_out ho).2]
        iluPaired := fun p hp' => by cases ho.symm.trans hp'; simp [hp]
        oneNamed := .inl rfl }
    · exact {
        macUnit := rfl
        iluUnit := hu
        mac := macNop_encodable
        ilu := h
        shared := sharedFields_of_mem_or_unused h.shared fun x hx =>
          .inl ((List.mem_append.1 hx).elim (nomatch ·) id)
        operandC := fun _ _ h => nomatch h
        outReg := fun _ _ h => nomatch h
        macPaired := fun _ h => nomatch h
        iluPaired := fun o ho => by simp [hp o ho]
        oneNamed := .inl rfl }

/-! ### The bits no field holds -/

/-- R54: no field stands in word 0 nor in bits 31:28 of word 1. -/
theorem descriptor_inUse (n : FieldName) :
    (descriptor n).word = 1 ∧ (descriptor n).lo + (descriptor n).len ≤ 28 ∨ (descriptor n).word = 2 ∨
      (descriptor n).word = 3 := by
  cases n <;> decide

/-- R78: a field depends on the bits of its window only. -/
theorem F_congr {t u : Slot} {n : FieldName} (h : ∀ i < (descriptor n).len,
    (t.word (descriptor n).word).getLsbD ((descriptor n).lo + i) =
      (u.word (descriptor n).word).getLsbD ((descriptor n).lo + i)) : F t n = F u n := by
  have hlen : (descriptor n).len ≤ 32 := le_of_add_le_right (descriptor_range n)
  refine BitVec.eq_of_getLsbD_eq fun i _ => ?_
  rw [F, F, extract_getLsbD _ _ _ _ hlen, extract_getLsbD _ _ _ _ hlen]
  by_cases hi : i < (descriptor n).len
  · rw [h i hi]
  · simp [hi]

/-- R79: a slot is read through its fields only. -/
theorem readFields_congr {t u : Slot} (h : ∀ n, F t n = F u n) : readFields t = readFields u := by
  simp only [readFields, h]

/-! ### What a decoded slot holds -/

/-- R63, R105: OUT_MUX gives the named-output stage to one unit. -/
theorem namedOut_one_unit {f : Fields} {n m : NamedOut} (hmac : f.namedOut .mac = some n) :
    f.namedOut .ilu ≠ some m := by
  intro hilu
  obtain ⟨hzero, -⟩ := (namedOut_eq_some_iff f .mac n).1 hmac
  obtain ⟨hone, -⟩ := (namedOut_eq_some_iff f .ilu m).1 hilu
  exact absurd (hzero.symm.trans hone) (by decide)

/-- R56, R61, R90, R105, R113: the slot that the fields decode to is well formed. -/
theorem decodeFields_encodable {f : Fields} {d : SlotInstr} (h : decodeFields f = .ok d) : d.Encodable := by
  obtain ⟨op, hop, ha, hb, hc, rfl⟩ := decodeFields_eq_ok h
  have hmac : ∀ x ∈ (macInstr op (f.operand .a) (f.operand .b) (f.operand .c) (f.out .mac)).args,
      x.wf = true ∧ ∃ y, x = f.operand y := by
    intro x hx
    rw [mem_args_iff, macInstr_opA, macInstr_opB] at hx
    simp only [Option.ite_none_right_eq_some, Option.some.injEq] at hx
    obtain ⟨hused, rfl⟩ | ⟨hused, rfl⟩ | hx := hx
    · exact ⟨ha hused, .a, rfl⟩
    · exact ⟨hb hused, .b, rfl⟩
    · exact macInstr_opC_eq hx ▸ ⟨hc, .c, rfl⟩
  have hilu : ∀ x ∈ (iluInstr (IluOp.ofBits f.ilu) (f.operand .c) (f.out .ilu)).args, x = f.operand .c := by
    intro x hx
    rw [mem_args_iff, iluInstr_opA, iluInstr_opB] at hx
    simpa using iluInstr_opC_eq (x := x) (by simpa using hx)
  have hshared (os : List Operand) (hos : ∀ x ∈ os, ∃ y, x = f.operand y) : sharedFields os = true :=
    sharedFields_of_fits fun x hx => by
      obtain ⟨y, rfl⟩ := hos x hx
      exact operand_fits f y
  have hmask (u : UnitName) (n : NamedOut) (hn : f.namedOut u = some n) : n.mask ≠ 0 := by
    obtain ⟨-, hmask, rfl⟩ := (namedOut_eq_some_iff f u n).1 hn
    exact hmask
  exact {
    macUnit := macInstr_unit ..
    iluUnit := iluInstr_unit ..
    mac := {
      operands := fun x hx => (hmac x hx).1
      shared := hshared _ fun x hx => (hmac x hx).2
      named := fun n hn => hmask .mac n (macInstr_named_eq hn)
      forced := fun _ _ h => nomatch (iluOp_of_mac (macInstr_unit ..)).symm.trans h }
    ilu := {
      operands := fun x hx => hilu x hx ▸ hc
      shared := hshared _ fun x hx => ⟨.c, hilu x hx⟩
      named := fun n hn => hmask .ilu n (iluInstr_named_eq hn)
      forced := by
        intro op' c hop' hopC hforced
        cases (iluInstr_iluOp ..).symm.trans hop'
        exact iluInstr_opC_eq hopC ▸ operandC_isBroadcast hforced }
    shared := hshared _ fun x hx =>
      (List.mem_append.1 hx).elim (fun hx => (hmac x hx).2) fun hx => ⟨.c, hilu x hx⟩
    operandC := fun _ _ hx hy => (macInstr_opC_eq hx).trans (iluInstr_opC_eq hy).symm
    outReg := fun _ _ hx hy => by rw [macInstr_out_eq hx, iluInstr_out_eq hy]; rfl
    macPaired := fun _ hx => by
      rw [macInstr_out_eq hx]
      simp only [Fields.out, ne_eq, iluInstr_eq_nop_iff, iluOp_ofBits_eq_nop_iff]
    iluPaired := fun _ hx => by
      rw [iluInstr_out_eq hx]
      simp only [Fields.out, ne_eq, macInstr_eq_nop_iff, macOp_eq_nop_iff hop]
    oneNamed := by
      by_contra! hboth
      obtain ⟨n, hn⟩ := Option.ne_none_iff_exists'.1 hboth.1
      obtain ⟨m, hm⟩ := Option.ne_none_iff_exists'.1 hboth.2
      exact namedOut_one_unit (macInstr_named_eq hn) (iluInstr_named_eq hm) }

end Sys2Proof

namespace Sys2Proof.Proofs

open Sys2Proof.Machine

/-- Settles O2: the slot made for the instruction is well formed, so it decodes by `decodeEncodeSlot`. -/
theorem decodeEncodeInstr : Obligations.DecodeEncodeInstr := by
  intro i h
  have halone : decodeSlot (encode i) = .ok i.alone :=
    decodeEncodeSlot _ ((slotInstr_wf_iff _).2 (alone_encodable ((instr_wf_iff i).1 h)))
  have hinstr : i.alone.instr i.unit = i := alone_instr i
  exact ⟨_, halone, hinstr, (readInstr_of_decodeSlot halone _).trans (congrArg some hinstr)⟩

/-- Settles O5: the two slots agree on the window of every field. -/
theorem unusedBitsNeverDecoded : Obligations.UnusedBitsNeverDecoded := by
  intro t u h1 h2 h3
  refine congrArg decodeFields (readFields_congr fun n => F_congr fun i hi => ?_)
  obtain ⟨hw, hwindow⟩ | hw | hw := descriptor_inUse n <;> rw [hw]
  · have hbit := congrArg (BitVec.getLsbD · ((descriptor n).lo + i)) h1
    have hin : (descriptor n).lo + i < 28 := by omega
    simpa [BitVec.getLsbD_extractLsb', hin, Slot.word] using hbit
  · exact congrArg (BitVec.getLsbD · _) h2
  · exact congrArg (BitVec.getLsbD · _) h3

/-- Settles O6: `decodeFields_encodable` on the fields of the slot. -/
theorem decodedSlotIsWellFormed : Obligations.DecodedSlotIsWellFormed :=
  fun _ d h => (slotInstr_wf_iff d).2 (decodeFields_encodable h)

end Sys2Proof.Proofs
end

section
/-! SUPPORT. Proofs of the statements about the operands of a slot (R55 to R59, R69, R82 to R90) and about the masked write
and the named-output table (R60, R71, R111, R170). -/

namespace Sys2Proof

/-! ### Field values as numbers -/

/-- R78: a field cut to a width that holds its length keeps its value. -/
theorem F_setWidth_toNat (t : Slot) (n : FieldName) {w : Nat} (h : (descriptor n).len ≤ w) :
    ((F t n).setWidth w).toNat = (F t n).toNat := by
  rw [BitVec.toNat_setWidth]
  exact Nat.mod_eq_of_lt ((F_toNat_lt t n).trans_le (Nat.pow_le_pow_right Nat.two_pos h))

/-- R55: operand C's index from its two parts, as a number. -/
theorem cIndex_toNat (f : Fields) : f.cIndex.toNat = 4 * f.cRHigh.toNat + f.cRLow.toNat := by
  have key : ∀ high low : BitVec 2, ((high.setWidth 4 <<< 2) ||| low.setWidth 4).toNat = 4 * high.toNat + low.toNat := by
    decide
  exact key _ _

/-- The one of three things, a field mostly, that is operand x's. -/
def OperandName.pick {α : Type} (x : OperandName) (a b c : α) : α :=
  match x with
  | .a => a
  | .b => b
  | .c => c

theorem readFields_mux_toNat (t : Slot) (x : OperandName) :
    ((readFields t).mux x).toNat = (F t (x.pick .aMux .bMux .cMux)).toNat := by
  cases x <;> exact F_setWidth_toNat t _ (Nat.le_refl _)

/-- R55: an operand's register index, from its own index fields. -/
theorem readFields_regNum (t : Slot) (x : OperandName) : (readFields t).regNum x =
    BitVec.ofNat 4 (x.pick (F t .aR).toNat (F t .bR).toNat (4 * (F t .cRHigh).toNat + (F t .cRLow).toNat)) := by
  cases x with
  | a => exact (BitVec.ofNat_toNat 4 (F t .aR)).symm
  | b => exact (BitVec.ofNat_toNat 4 (F t .bR)).symm
  | c =>
    have hindex : (readFields t).cIndex.toNat = 4 * (F t .cRHigh).toNat + (F t .cRLow).toNat := by
      rw [cIndex_toNat]
      exact congrArg₂ (4 * · + ·) (F_setWidth_toNat t .cRHigh (Nat.le_refl _)) (F_setWidth_toNat t .cRLow (Nat.le_refl _))
    simp only [OperandName.pick, ← hindex, BitVec.ofNat_toNat, BitVec.setWidth_eq]
    rfl

/-- R59, R83: an operand is negated exactly where its sign field is 1. -/
theorem readFields_neg_iff (t : Slot) (x : OperandName) :
    (readFields t).neg x = true ↔ (F t (x.pick .aNeg .bNeg .cNeg)).toNat = 1 := by
  cases x <;> simp only [Fields.neg, decide_eq_true_eq, ← BitVec.toNat_inj] <;>
    exact iff_of_eq (congrArg (· = 1) (F_setWidth_toNat t _ (Nat.le_refl _)))

/-- R58, R89: each encoded selector names the lane of its field's number. -/
theorem readFields_encodedSwizzle_lanes (t : Slot) (x : OperandName) :
    let z := (readFields t).encodedSwizzle x
    z.x.lane.val = (F t (x.pick .aSwzX .bSwzX .cSwzX)).toNat ∧
      z.y.lane.val = (F t (x.pick .aSwzY .bSwzY .cSwzY)).toNat ∧
      z.z.lane.val = (F t (x.pick .aSwzZ .bSwzZ .cSwzZ)).toNat ∧
      z.w.lane.val = (F t (x.pick .aSwzW .bSwzW .cSwzW)).toNat := by
  have hlane (n : FieldName) (h : (descriptor n).len ≤ 2) :
      (Sel.ofBits ((F t n).setWidth 2)).lane.val = (F t n).toNat := by
    rw [sel_ofBits_lane, F_setWidth_toNat t n h]
  cases x <;> exact ⟨hlane _ (Nat.le_refl _), hlane _ (Nat.le_refl _), hlane _ (Nat.le_refl _), hlane _ (Nat.le_refl _)⟩

theorem readFields_a0x_iff (t : Slot) : (readFields t).a0x = 1 ↔ F t .a0x = 1 := by
  rw [← BitVec.toNat_inj, ← BitVec.toNat_inj]
  exact iff_of_eq (congrArg (· = 1) (F_setWidth_toNat t .a0x (Nat.le_refl _)))

/-! ### Operands by their fields -/

/-- R84, R85, R87: the register each class names. -/
theorem source_of_mux (f : Fields) (x : OperandName) :
    ((f.mux x).toNat = 1 → f.source x = .temp (f.regNum x)) ∧ ((f.mux x).toNat = 2 → f.source x = .attr f.v) ∧
      ((f.mux x).toNat = 3 → f.source x = .const (remapConst f.const) (decide (f.a0x = 1))) := by
  have hmux (n : Nat) (h : (f.mux x).toNat = n) : f.mux x = BitVec.ofNat 2 n := by rw [← h, BitVec.ofNat_toNat]; rfl
  refine ⟨fun h => ?_, fun h => ?_, fun h => ?_⟩ <;> simp [Fields.source, hmux _ h]

/-- R90: the swizzle that a scalar-forcing ILU opcode gives operand C. -/
theorem swizzle_of_forced {f : Fields} {x : OperandName}
    (h : x = .c ∧ 2 ≤ f.ilu.toNat ∧ f.ilu.toNat ≤ 6) : f.swizzle x = .broadcast (f.encodedSwizzle x).x := by
  rw [← scalarForcing_ofBits_iff] at h
  rw [Fields.swizzle, if_pos h, h.1]
  rfl

/-- R89: every other swizzle is the encoded one. -/
theorem swizzle_of_not_forced {f : Fields} {x : OperandName}
    (h : ¬(x = .c ∧ 2 ≤ f.ilu.toNat ∧ f.ilu.toNat ≤ 6)) : f.swizzle x = f.encodedSwizzle x := by
  rw [← scalarForcing_ofBits_iff] at h
  rw [Fields.swizzle, if_neg h]

/-- R90: forcing keeps the x selector. -/
theorem swizzle_x (f : Fields) (x : OperandName) : (f.swizzle x).x = (f.encodedSwizzle x).x := by
  by_cases h : x = .c ∧ 2 ≤ f.ilu.toNat ∧ f.ilu.toNat ≤ 6
  · rw [swizzle_of_forced h]; rfl
  · rw [swizzle_of_not_forced h]

/-- R69: the operands of a MAC instruction, by its opcode's field value. -/
theorem macInstr_args (op : MacOp) (a b c : Operand) (o : Out) : (macInstr op a b c o).args =
    if op.code.toNat = 0 then [] else if op.code.toNat = 1 ∨ op.code.toNat = 13 then [a]
    else if op.code.toNat = 3 then [a, c] else if op.code.toNat = 4 then [a, b, c] else [a, b] := by
  cases op <;> rfl

/-- R69, R152: the operand of an ILU instruction, by its opcode's field value. -/
theorem iluInstr_args (op : IluOp) (c : Operand) (o : Out) :
    (iluInstr op c o).args = if op.code.toNat = 0 then [] else [c] := by
  cases op <;> rfl

end Sys2Proof

namespace Sys2Proof.Machine

/-! ### Lanes and named outputs -/

/-- R111: how many lanes before lane i the mask enables. -/
theorem enabledBefore_val (m : Mask) (i : Fin 4) :
    (enabledBefore m i).val = (List.finRange 4).countP (fun j => decide (j < i) && m.getLsbD (3 - j.val)) := by
  revert m i
  decide

/-- R71: the ten further outputs of the named-output table, with their indices. -/
def furtherOutputs : List (BitVec 4 × OutReg) :=
  [(3, .oD0), (4, .oD1), (5, .oFog), (6, .oPts), (7, .oB0), (8, .oB1), (9, .oT0), (10, .oT1), (11, .oT2), (12, .oT3)]

theorem namedOutput_of_mem_furtherOutputs : ∀ p ∈ furtherOutputs, namedOutput p.1 = some (.further p.2) := by
  decide

theorem namedOutput_none_of_placeholder {j : BitVec 4} (h : j = 1 ∨ j = 2 ∨ 13 ≤ j.toNat) : namedOutput j = none := by
  rw [namedOutput_none_iff]
  bv_omega

theorem writeDest_placeholder {j : BitVec 4} (h : namedOutput j = none) (m : Mask) (r : Vec4) (s : State) :
    writeDest (.out (.named j)) m r s = .error (.unmappedOutput s.slot j) := by
  simp [writeDest, writeNamed, h]

theorem writeDest_further {j : BitVec 4} {o : OutReg} (h : namedOutput j = some (.further o)) (m : Mask) (r : Vec4)
    (s : State) : writeDest (.out (.named j)) m r s = .ok (writeOut o m r s) := by
  simp [writeDest, writeNamed, h]

end Sys2Proof.Machine

namespace Sys2Proof.Proofs

open Sys2Proof.Machine

/-- Settles O37: `mergeLanes_get` lane by lane, and `enabledBefore_val` for the packed mode's result lane. -/
theorem maskedWrite : Obligations.MaskedWrite := by
  intro m old r i k hk
  have hpacked : enabledBefore m i = k := Fin.ext ((enabledBefore_val m i).trans hk.symm)
  refine ⟨fun (hclear : enabled m i = false) mode => ?_, fun (hset : enabled m i = true) => ⟨?_, ?_⟩⟩
  · simp [hclear]
  · simp [hset, sourceLane]
  · simp [hset, sourceLane, hpacked]

/-- Settles O57: the class by `decodeOperand_eq` and `source_of_mux`, the swizzle by whether operand C is forced. -/
theorem operandFromSlotFields : Obligations.OperandFromSlotFields := by
  intro t x
  have hmux := readFields_mux_toNat t x
  have hzero : (readFields t).mux x = 0 ↔ (F t (x.pick .aMux .bMux .cMux)).toNat = 0 := by
    rw [← hmux, ← BitVec.toNat_inj]; rfl
  obtain ⟨htemp, hattr, hconst⟩ := source_of_mux (readFields t) x
  rw [hmux] at htemp hattr hconst
  obtain ⟨hx, hy, hz, hw⟩ := readFields_encodedSwizzle_lanes t x
  have hilu : (readFields t).ilu.toNat = (F t .ilu).toNat := F_setWidth_toNat t .ilu (Nat.le_refl _)
  refine ⟨fun h => ?invalid, fun h => ?valid, fun h => ?temp, fun h => ?attr, fun h => ?const, readFields_neg_iff t x,
    ?selX, fun h => ?forced, fun h => ?encoded⟩
  case invalid => rw [decodeOperand_eq, if_pos (hzero.2 h)]
  case valid => rw [decodeOperand_eq, if_neg (mt hzero.1 h)]
  case temp => exact (htemp h).trans (congrArg Source.temp (readFields_regNum t x))
  case attr => exact (hattr h).trans (congrArg Source.attr (BitVec.ofNat_toNat 4 (F t .v)).symm)
  case const =>
    refine (hconst h).trans ?_
    simp only [readFields_a0x_iff, BitVec.ofNat_toNat]
    rfl
  case selX => exact (swizzle_x (readFields t) x) ▸ hx
  case forced =>
    rw [← hilu] at h
    have hswz : ((readFields t).operand x).swz = .broadcast ((readFields t).encodedSwizzle x).x := swizzle_of_forced h
    rw [hswz]
    exact ⟨hx, hx, hx⟩
  case encoded =>
    rw [← hilu] at h
    have hswz : ((readFields t).operand x).swz = (readFields t).encodedSwizzle x := swizzle_of_not_forced h
    rw [hswz]
    exact ⟨hy, hz, hw⟩

/-- Settles O58: the opcode fields decide the rows of `macInstr_args` and `iluInstr_args`. -/
theorem consumedOperandsInOrder : Obligations.ConsumedOperandsInOrder := by
  intro t d h
  obtain ⟨op, hop, -, -, -, rfl⟩ := decodeFields_eq_ok h
  have hmac : op.code.toNat = (F t .mac).toNat :=
    (congrArg BitVec.toNat (macOp_code_of_ofBits _ op hop)).trans (F_setWidth_toNat t .mac (Nat.le_refl _))
  have hilu : (IluOp.ofBits (readFields t).ilu).code.toNat = 0 ↔ F t .ilu = 0 := by
    rw [iluOp_code_ofBits, ← BitVec.toNat_inj]
    exact iff_of_eq (congrArg (· = 0) (F_setWidth_toNat t .ilu (Nat.le_refl _)))
  exact ⟨by rw [macInstr_args, hmac], by simp only [iluInstr_args, hilu]⟩

/-- Settles O36: the table says which register an index names, and a placeholder names none. -/
theorem namedOutputTable : Obligations.NamedOutputTable := by
  intro m r s j o
  refine ⟨fun h => writeDest_placeholder (namedOutput_none_of_placeholder h) m r s, fun h => ?_⟩
  have hj : namedOutput j = some (.further o) := namedOutput_of_mem_furtherOutputs (j, o) h
  exact ⟨_, writeDest_further hj m r s, by simp [outValue]⟩

end Sys2Proof.Proofs
end

section
/-! SUPPORT. Proofs of the statements about the field extractor (R51, R52, R78, R80, R81): a value written into a field's
window, the extractor as arithmetic, and the check of a field table. -/

namespace Sys2Proof

/-! ### The extractor and a field's window -/

/-- R78: the extractor divides by two to the start bit and keeps the length's low bits. -/
theorem extract_toNat (t : Slot) (word : Fin 4) (lo : Nat) {len : Nat} (h : len ≤ 32) :
    (extract t word lo len).toNat = (t.word word).toNat / 2 ^ lo % 2 ^ len := by
  refine Nat.eq_of_testBit_eq fun i => ?_
  rw [BitVec.testBit_toNat, extract_getLsbD t word lo len h, Nat.testBit_mod_two_pow, Nat.testBit_div_two_pow,
    BitVec.testBit_toNat, Nat.add_comm]

/-- R52: the mask of a descriptor has the bits of its window set, and no other. -/
theorem mask_getLsbD {d : Descriptor} (h : d.lo + d.len ≤ 32) (i : Nat) :
    d.mask.getLsbD i = decide (d.lo ≤ i ∧ i < d.lo + d.len) := by
  rw [Descriptor.mask, BitVec.getLsbD_shiftLeft, lowMask_getLsbD d.len (le_of_add_le_right h)]
  grind

/-- R78: a field reads the value whose bits stand in its window. -/
theorem F_eq_of_window {t : Slot} {n : FieldName} {val : Word} (hval : val.toNat < 2 ^ (descriptor n).len)
    (h : ∀ i < (descriptor n).len, (t.word (descriptor n).word).getLsbD ((descriptor n).lo + i) = val.getLsbD i) :
    F t n = val := by
  refine BitVec.eq_of_getLsbD_eq fun i _ => ?_
  rw [F, extract_getLsbD _ _ _ _ (le_of_add_le_right (descriptor_range n))]
  by_cases hi : i < (descriptor n).len
  · simp [hi, h i hi]
  · have hhigh : val.getLsbD i = false :=
      Nat.testBit_lt_two_pow (hval.trans_le (Nat.pow_le_pow_right Nat.two_pos (Nat.le_of_not_lt hi)))
    simp [hi, hhigh]

/-- R81: a value shifted to a field's start bit stands in the field's window. -/
theorem shifted_getLsbD (n : FieldName) (val : Word) {i : Nat} (hi : i < (descriptor n).len) :
    (val <<< (descriptor n).lo).getLsbD ((descriptor n).lo + i) = val.getLsbD i := by
  have hrange := descriptor_range n
  have hword : (descriptor n).lo + i < 32 := by omega
  rw [BitVec.getLsbD_shiftLeft, Nat.add_sub_cancel_left]
  simp only [hword, Nat.not_lt.2 (Nat.le_add_right _ i), decide_true, decide_false, Bool.not_false, Bool.true_and]

/-! ### A window written (R81) -/

/-- R81: a bit of the written word is the shifted value's inside the window, and the old word's outside it. -/
theorem insertField_getLsbD (t : Slot) (n : FieldName) (val : Word) {i : Nat} (hi : i < 32) :
    ((insertField t n val).word (descriptor n).word).getLsbD i =
      if (descriptor n).lo ≤ i ∧ i < (descriptor n).lo + (descriptor n).len
      then (val <<< (descriptor n).lo).getLsbD i else (t.word (descriptor n).word).getLsbD i := by
  rw [insertField, setWord_word, BitVec.getLsbD_or, BitVec.getLsbD_and, BitVec.getLsbD_and, BitVec.getLsbD_not,
    mask_getLsbD (descriptor_range n)]
  split <;> simp [*]

theorem insertField_word_ne (t : Slot) (n : FieldName) (val : Word) {k : Fin 4} (h : k ≠ (descriptor n).word) :
    (insertField t n val).word k = t.word k :=
  setWord_word_ne t _ k _ h

theorem F_insertField_self (t : Slot) {n : FieldName} {val : Word} (hval : val.toNat < 2 ^ (descriptor n).len) :
    F (insertField t n val) n = val := by
  refine F_eq_of_window hval fun i hi => ?_
  have hrange := descriptor_range n
  rw [insertField_getLsbD t n val (by omega), if_pos (by omega), shifted_getLsbD n val hi]

theorem F_insertField_ne (t : Slot) {n m : FieldName} (val : Word) (h : m ≠ n) :
    F (insertField t n val) m = F t m := by
  refine F_congr fun i hi => ?_
  by_cases hword : (descriptor m).word = (descriptor n).word
  · have hdisjoint := (descriptor_disjoint m n h).resolve_left (not_not_intro hword)
    have hrange := descriptor_range m
    rw [hword, insertField_getLsbD t n val (by omega), if_neg (by omega)]
  · rw [insertField_word_ne t n val hword]

/-! ### The check of a field table (R80) -/

theorem inRange_iff (d : Descriptor) : d.inRange = true ↔ d.lo + d.len ≤ 32 :=
  decide_eq_true_iff

theorem fieldRangeViolation_eq_none_iff (table : List Descriptor) :
    fieldRangeViolation table = none ↔ ∀ d ∈ table, d.lo + d.len ≤ 32 := by
  simp [fieldRangeViolation, inRange_iff]

theorem fieldRangeViolation_eq_some {table : List Descriptor} {n : FieldName} (h : fieldRangeViolation table = some n) :
    ∃ d ∈ table, n = d.name ∧ 32 < d.lo + d.len := by
  obtain ⟨d, hfind, rfl⟩ := Option.map_eq_some_iff.1 h
  have hout : ¬ d.inRange = true := by simpa using List.find?_some hfind
  exact ⟨d, List.mem_of_find?_eq_some hfind, rfl, Nat.lt_of_not_le (mt (inRange_iff d).2 hout)⟩

end Sys2Proof

namespace Sys2Proof.Machine

theorem checkConfiguration_eq_ok_iff (table : List Descriptor) :
    checkConfiguration table = .ok () ↔ fieldRangeViolation table = none := by
  cases h : fieldRangeViolation table <;> simp [checkConfiguration, h]

theorem checkConfiguration_eq_error_iff (table : List Descriptor) (f : Fault) :
    checkConfiguration table = .error f ↔ ∃ n, fieldRangeViolation table = some n ∧ f = .fieldRangeViolation n := by
  cases h : fieldRangeViolation table <;> simp [checkConfiguration, h, eq_comm]

end Sys2Proof.Machine

namespace Sys2Proof.Proofs

open Sys2Proof.Machine

/-- Settles O3: the value's bits stand in the field's window, and the windows of two fields are disjoint. -/
theorem fieldRoundTrip : Obligations.FieldRoundTrip := by
  intro n val hval
  refine ⟨F_eq_of_window hval fun i hi => ?_, fun t => ⟨F_insertField_self t hval, fun _ h => F_insertField_ne t val h⟩⟩
  rw [setWord_word, shifted_getLsbD n val hi]

/-- Settles O4: `extract_toNat`, a window inside the word being no longer than it. -/
theorem extractorReadsBitWindow : Obligations.ExtractorReadsBitWindow :=
  fun t word lo _ h => extract_toNat t word lo (le_of_add_le_right h)

/-- Settles O8: the check answers as the search for a window that exceeds its word does. -/
theorem configurationCheck : Obligations.ConfigurationCheck := by
  refine ⟨fun table => ⟨?passes, fun f hfail => ?names⟩, checkConfiguration_fieldTable⟩
  case passes => rw [checkConfiguration_eq_ok_iff, fieldRangeViolation_eq_none_iff]
  case names =>
    obtain ⟨n, hn, rfl⟩ := (checkConfiguration_eq_error_iff table f).1 hfail
    obtain ⟨d, hd, rfl, hout⟩ := fieldRangeViolation_eq_some hn
    exact ⟨d, hd, rfl, hout⟩

end Sys2Proof.Proofs
end

section
/-! SUPPORT. Proofs of the statements about the operand decoder and the decoder's faults (R86, R88, R90, R91, R113 to
R119), and about the reads of an operand at execution (R94 to R97, R167 to R169, R172, R175). -/

namespace Sys2Proof

/-! ### Field values as fields of a slot -/

/-- R78: a field cut to a width that holds it is a number of that width exactly where the field is that number. -/
theorem F_setWidth_eq_iff (t : Slot) (n : FieldName) {w k : Nat} (hlen : (descriptor n).len ≤ w) (hw : w ≤ 32)
    (hk : k < 2 ^ w) : (F t n).setWidth w = BitVec.ofNat w k ↔ F t n = BitVec.ofNat 32 k := by
  have hk32 : k < 2 ^ 32 := hk.trans_le (Nat.pow_le_pow_right Nat.two_pos hw)
  rw [← BitVec.toNat_inj, ← BitVec.toNat_inj, F_setWidth_toNat t n hlen, BitVec.toNat_ofNat, BitVec.toNat_ofNat,
    Nat.mod_eq_of_lt hk, Nat.mod_eq_of_lt hk32]

theorem readFields_mux_eq_zero_iff (t : Slot) (x : OperandName) :
    (readFields t).mux x = 0 ↔ F t (x.pick .aMux .bMux .cMux) = 0 := by
  cases x <;> exact F_setWidth_eq_iff t _ (k := 0) (Nat.le_refl 2) (by decide) (by decide)

theorem readFields_final_iff (t : Slot) : (readFields t).final = 1 ↔ F t .final = 1 :=
  F_setWidth_eq_iff t .final (k := 1) (Nat.le_refl 1) (by decide) (by decide)

theorem readFields_mac_toNat (t : Slot) : (readFields t).mac.toNat = (F t .mac).toNat :=
  F_setWidth_toNat t .mac (Nat.le_refl 4)

theorem readFields_ilu_toNat (t : Slot) : (readFields t).ilu.toNat = (F t .ilu).toNat :=
  F_setWidth_toNat t .ilu (Nat.le_refl 3)

/-- R67: a slot's MAC field names the opcode whose code it holds. -/
theorem macOp_ofBits_readFields {t : Slot} {op : MacOp} (h : (F t .mac).toNat = op.code.toNat) :
    MacOp.ofBits (readFields t).mac = some op := by
  have hcode : (readFields t).mac = op.code := BitVec.eq_of_toNat_eq ((readFields_mac_toNat t).trans h)
  rw [hcode, macOp_ofBits_code]

@[simp] theorem macInstr_macOp (op : MacOp) (a b c : Operand) (o : Out) : (macInstr op a b c o).macOp = some op := by
  cases op <;> rfl

/-! ### The decoder's answer by the fault order of R119 -/

/-- R88, R119: operand C is checked first. -/
theorem decodeFields_of_invalid_c {f : Fields} (hc : f.mux .c = 0) :
    decodeFields f = .error (.invalidOperandClass .c) := by
  rw [decodeFields, decodeOperand_eq, if_pos hc]

/-- R115, R119: the reserved MAC opcodes are refused next. -/
theorem decodeFields_of_reserved {f : Fields} (hc : f.mux .c ≠ 0) (hop : MacOp.ofBits f.mac = none) :
    decodeFields f = .error (.reservedMacOpcode f.mac) := by
  rw [decodeFields, decodeOperand_eq, if_neg hc, hop]

/-- R114, R119: the class check of an operand, by its class field. -/
theorem checkIfUsed_eq (f : Fields) (used : Bool) (x : OperandName) :
    checkIfUsed f used x = if used = true ∧ f.mux x = 0 then .error (.invalidOperandClass x) else .ok () := by
  simp [checkIfUsed, operand_wf]

/-- R114, R119: with a defined MAC opcode, operands A and B are checked in that order, each where it is consumed. -/
theorem decodeFields_of_macOp {f : Fields} {op : MacOp} (hc : f.mux .c ≠ 0) (hop : MacOp.ofBits f.mac = some op) :
    decodeFields f =
      if op.usesA = true ∧ f.mux .a = 0 then .error (.invalidOperandClass .a)
      else if op.usesB = true ∧ f.mux .b = 0 then .error (.invalidOperandClass .b)
      else .ok ⟨macInstr op (f.operand .a) (f.operand .b) (f.operand .c) (f.out .mac),
        iluInstr (IluOp.ofBits f.ilu) (f.operand .c) (f.out .ilu), decide (f.final = 1)⟩ := by
  simp only [decodeFields, decodeOperand_eq, if_neg hc, hop, checkIfUsed_eq]
  split_ifs <;> rfl

/-- R113: the operand C of either unit's instruction is the slot's. -/
theorem decodeFields_opC {f : Fields} {d : SlotInstr} {c : Operand} (h : decodeFields f = .ok d)
    (hc : d.mac.opC = some c ∨ d.ilu.opC = some c) : c = f.operand .c := by
  obtain ⟨op, -, -, -, -, rfl⟩ := decodeFields_eq_ok h
  exact hc.elim macInstr_opC_eq iluInstr_opC_eq

end Sys2Proof

namespace Sys2Proof.Machine

/-! ### Reads -/

/-- R95: a relative read whose integer sum is a constant's number reads that constant. -/
theorem readRelConst_of_sum {s : State} {a : BitVec 8} {i : Fin 192} (h : relIndex s a = i.val) :
    readRelConst s a = .ok s.vertex.consts[i] := by
  obtain ⟨_, e⟩ | ⟨hout, -⟩ := readRelConst_eq s a
  · simpa only [h, Int.toNat_natCast, Fin.getElem_fin] using e
  · omega

theorem evalOperand_of_read {s : State} {o : Operand} {v : Vec4} (h : readSource s o.src = .ok v) :
    evalOperand s o = .ok (shapeOperand Config.fp o v) := by
  simp only [evalOperand, h]

/-- R96: neither the swizzle nor the sign can fault, so an operand's fault is its register read's. -/
theorem evalOperand_eq_error_iff (s : State) (o : Operand) (f : Fault) :
    evalOperand s o = .error f ↔ readSource s o.src = .error f := by
  cases h : readSource s o.src <;> simp [evalOperand, h]

/-! ### The fault of an unreadable operand -/

theorem exists_macArl_of_macOp {i : Instr} (h : i.macOp = some .arl) : ∃ a named, i = .macArl a named := by
  cases i <;> simp_all [Instr.macOp]

theorem macArl_args (a : Operand) (named : Option NamedOut) : (Instr.macArl a named).args = [a] := rfl

/-- R104, R108: only an instruction that is not ARL can have no statement. -/
theorem stmtDests_eq_nil_iff (i : Instr) : stmtDests i = [] ↔ i.macOp ≠ some .arl ∧ vecWrites i = [] := by
  by_cases h : i.macOp = some .arl <;> simp [stmtDests, h]

/-- R112, R175: the first of a unit's statements takes the fault of its reads, and nothing is written. -/
theorem runStmts_of_value_error {value : Calc} {s : State} {f : Fault} (h : value s = .error f)
    {ws : List (VecDest × Mask)} (hne : ws ≠ []) : runStmts value ws s = .error (f, s) := by
  obtain ⟨w, rest, rfl⟩ := List.exists_cons_of_ne_nil hne
  simp [runStmts, runStmt, h]

/-- R97, R175: a vector instruction with a statement takes the fault of its first operand out of range. -/
theorem exec_vector_of_readFaults {i : Instr} {s : State} {pre post : List Operand} {o : Operand} {f : Fault}
    (harl : i.macOp ≠ some .arl) (hne : vecWrites i ≠ []) (hargs : i.args = pre ++ o :: post)
    (hpre : ∀ p ∈ pre, Readable s p) (hf : ReadFaults s o f) : exec i s = .next (takeExecutionFault f s) := by
  obtain ⟨value, ⟨-, hreads⟩, hexec, -⟩ := exec_vector i harl
  rw [hexec, runStmts_of_value_error (hreads s pre o post f hargs hpre hf) hne]
  rfl

/-- R150, R175: ARL takes the fault of its operand before A0 is written. -/
theorem exec_arl_of_readFaults {a : Operand} {s : State} {f : Fault} (hf : ReadFaults s a f)
    (named : Option NamedOut) : exec (.macArl a named) s = .next (takeExecutionFault f s) := by
  have hval : evalOperand s a = .error f := evalOperand_of_readFaults hf
  obtain ⟨g, hg, e⟩ | ⟨v, hv, -⟩ | ⟨v, g, hv, -⟩ := exec_arl a named s
  · rw [hval] at hg
    cases hg
    exact e
  · exact absurd (hval.symm.trans hv) nofun
  · exact absurd (hval.symm.trans hv) nofun

/-- R97, R116, R117: an instruction with no statement reads nothing and changes nothing. -/
theorem exec_of_no_statement {i : Instr} (h : stmtDests i = []) (s : State) : exec i s = .next s := by
  obtain ⟨harl, hnil⟩ := (stmtDests_eq_nil_iff i).1 h
  obtain ⟨value, -, hexec, -⟩ := exec_vector i harl
  rw [hexec, hnil]
  rfl

/-! ### The swizzle suffix -/

/-- R58, R91: a selector's letter is that of its lane. -/
theorem selLetter_eq (l : Sel) : selLetter l = ["x", "y", "z", "w"].getD l.lane.val "" := by
  cases l <;> rfl

theorem broadcast_ne_identity (l : Sel) : Swizzle.broadcast l ≠ Swizzle.identity := by
  cases l <;> decide

theorem swizzleText_broadcast (l : Sel) : swizzleText (.broadcast l) = "." ++ selLetter l := by
  rw [swizzleText, if_neg (broadcast_ne_identity l)]
  exact if_pos rfl

/-- R90: a broadcast swizzle is one whose four selectors are equal. -/
theorem eq_broadcast_iff (z : Swizzle) : z = .broadcast z.x ↔ z.x = z.y ∧ z.y = z.z ∧ z.z = z.w := by
  obtain ⟨sx, sy, sz, sw⟩ := z
  simp only [Swizzle.broadcast, Swizzle.mk.injEq, true_and]
  constructor <;> rintro ⟨rfl, rfl, rfl⟩ <;> exact ⟨rfl, rfl, rfl⟩

end Sys2Proof.Machine

namespace Sys2Proof.Proofs

open Sys2Proof.Machine

/-- Settles O7: each clause is the decoder's equation for that check, the fields read as the slot's own. -/
theorem decodeFaultOrder : Obligations.DecodeFaultOrder := by
  intro t
  have ha : (readFields t).mux .a = 0 ↔ F t .aMux = 0 := readFields_mux_eq_zero_iff t .a
  have hb : (readFields t).mux .b = 0 ↔ F t .bMux = 0 := readFields_mux_eq_zero_iff t .b
  have hc : (readFields t).mux .c = 0 ↔ F t .cMux = 0 := readFields_mux_eq_zero_iff t .c
  refine ⟨fun h => decodeFields_of_invalid_c (hc.2 h), fun h hmac => ?reserved, fun op h hmac => ?defined⟩
  case reserved =>
    have hnone := (macOp_ofBits_none (readFields t).mac).2 (readFields_mac_toNat t ▸ hmac)
    rw [decodeSlot, decodeFields_of_reserved (mt hc.1 h) hnone, BitVec.ofNat_toNat]
    rfl
  case defined =>
    rw [decodeSlot, decodeFields_of_macOp (mt hc.1 h) (macOp_ofBits_readFields hmac)]
    simp only [ha, hb]
    refine ⟨fun huse hmux => if_pos ⟨huse, hmux⟩, fun hA huse hmux => ?invalidB, fun hA hB => ?decodes⟩
    case invalidB => rw [if_neg (not_and.2 hA), if_pos ⟨huse, hmux⟩]
    case decodes =>
      rw [if_neg (not_and.2 hA), if_neg (not_and.2 hB)]
      refine ⟨_, rfl, macInstr_macOp .., ?_, decide_eq_decide.2 (readFields_final_iff t)⟩
      simp only [iluInstr_iluOp, Option.map_some, iluOp_code_ofBits, readFields_ilu_toNat]

/-- Settles O10: the operand C either unit consumes is the slot's, whose selectors `operandFromSlotFields` gives. -/
theorem scalarForcingOfOperandC : Obligations.ScalarForcingOfOperandC := by
  intro t d c h hc
  obtain rfl := decodeFields_opC h hc
  obtain ⟨-, -, -, -, -, -, hx, hforced, hencoded⟩ := operandFromSlotFields t .c
  exact ⟨fun hin => ⟨hx, hforced ⟨rfl, hin⟩⟩, fun hout => ⟨hx, hencoded fun ⟨_, hin⟩ => by omega⟩⟩

/-- Settles O12: each clause is the read of its class, in range; the faults are `evalOperand_of_readFaults`, since only
the register read can fault. -/
theorem operandReads : Obligations.OperandReads := by
  intro s neg z
  refine ⟨fun n h => dif_pos h, fun n h => rfl, fun a h => dif_pos h, fun a i h => readRelConst_of_sum h,
    fun src f _ hf => ?faults⟩
  case faults => exact (evalOperand_eq_error_iff s ⟨src, neg, z⟩ f).1 (evalOperand_of_readFaults hf)

/-- Settles O29: ARL's statement and a vector instruction's first one read the operands before they write anything. -/
theorem unreadableOperandFaults : Obligations.UnreadableOperandFaults := by
  refine fun i s => ⟨fun pre post o f hne hargs hpre hf => ?faults, fun h => exec_of_no_statement h s⟩
  by_cases harl : i.macOp = some .arl
  · obtain ⟨a, named, rfl⟩ := exists_macArl_of_macOp harl
    obtain ⟨-, rfl, -⟩ : pre = [] ∧ o = a ∧ post = [] := by
      simpa [macArl_args, List.append_eq_singleton_iff] using hargs.symm
    exact exec_arl_of_readFaults hf named
  · have hwrites : vecWrites i ≠ [] := fun hnil => hne ((stmtDests_eq_nil_iff i).2 ⟨harl, hnil⟩)
    exact exec_vector_of_readFaults harl hwrites hargs hpre hf

/-- Settles O11: the correction of 96 undoes the shift by three banks of 32. -/
theorem remapConstIsIdentity : Obligations.RemapConstIsIdentity :=
  remapConst_eq_self

/-- Settles O13: the value is `shapeOperand` of the register, whose branch the sign bit decides. -/
theorem swizzleThenNegate : Obligations.SwizzleThenNegate := by
  intro s o v h
  refine ⟨_, evalOperand_of_read h, fun hplus => ?plain, fun hminus => ?negated⟩
  case plain =>
    rw [shapeOperand, hplus]
    exact ⟨rfl, rfl, rfl, rfl⟩
  case negated =>
    rw [shapeOperand, hminus]
    exact ⟨rfl, rfl, rfl, rfl⟩

/-- Settles O46: the three cases of `swizzleText`, which exclude each other as no broadcast is the identity. -/
theorem swizzleSuffix : Obligations.SwizzleSuffix := by
  intro z
  simp only [← selLetter_eq, ← eq_broadcast_iff]
  refine ⟨fun hid => if_pos hid, fun hall => ?one, fun hid hall => ?four⟩
  case one => rw [hall]; exact swizzleText_broadcast z.x
  case four => exact (if_neg hid).trans (if_neg hall)

end Sys2Proof.Proofs
end

section
/-! SUPPORT. Proofs of the statements about the emitter: a unit's statements from the slot's own fields and the co-issue
rules (R99 to R108, R194), and ARL, with and without the named-output stage (R110, R150, R171, R175). -/

namespace Sys2Proof

/-! ### The opcode and output fields of a slot -/

theorem macOp_code_toNat_field {t : Slot} {op : MacOp} (hop : MacOp.ofBits (readFields t).mac = some op) :
    op.code.toNat = (F t .mac).toNat :=
  (congrArg BitVec.toNat (macOp_code_of_ofBits _ op hop)).trans (readFields_mac_toNat t)

/-- R67: the opcode of a slot's MAC field is the one whose code the field holds. -/
theorem macOp_eq_iff_field {t : Slot} {op : MacOp} (hop : MacOp.ofBits (readFields t).mac = some op) (q : MacOp) :
    op = q ↔ F t .mac = BitVec.ofNat 32 q.code.toNat := by
  have hfield : (readFields t).mac = BitVec.ofNat 4 q.code.toNat ↔ F t .mac = BitVec.ofNat 32 q.code.toNat :=
    F_setWidth_eq_iff t .mac (Nat.le_refl 4) (by decide) q.code.isLt
  rw [← hfield, BitVec.ofNat_toNat, BitVec.setWidth_eq]
  constructor
  · rintro rfl
    exact (macOp_code_of_ofBits _ op hop).symm
  · intro hcode
    rw [hcode, macOp_ofBits_code] at hop
    exact (Option.some.inj hop).symm

theorem readFields_mac_eq_zero_iff (t : Slot) : (readFields t).mac = 0 ↔ F t .mac = 0 :=
  F_setWidth_eq_iff t .mac (k := 0) (Nat.le_refl 4) (by decide) (by decide)

theorem readFields_ilu_eq_zero_iff (t : Slot) : (readFields t).ilu = 0 ↔ F t .ilu = 0 :=
  F_setWidth_eq_iff t .ilu (k := 0) (Nat.le_refl 3) (by decide) (by decide)

/-- R63: the unit OUT_MUX selects. -/
theorem readFields_outMux_iff (t : Slot) (u : UnitName) :
    (readFields t).outMux = u.sel ↔ F t .outMux = BitVec.ofNat 32 u.sel.toNat := by
  cases u with
  | mac => exact F_setWidth_eq_iff t .outMux (k := 0) (Nat.le_refl 1) (by decide) (by decide)
  | ilu => exact F_setWidth_eq_iff t .outMux (k := 1) (Nat.le_refl 1) (by decide) (by decide)

@[simp] theorem out_named (f : Fields) (u : UnitName) : (f.out u).named = f.namedOut u := by
  cases u <;> rfl

/-- R62, R64, R106, R107: the destination of the named-output stage, from ORB and OUT_ADDRESS. -/
theorem readFields_outDest (t : Slot) : (readFields t).outDest =
    if F t .outOrb = 0 then .const (remapConst (BitVec.ofNat 8 (F t .outAddress).toNat))
    else .named (BitVec.ofNat 4 ((F t .outAddress).toNat % 16)) := by
  have horb : (readFields t).outOrb = 0 ↔ F t .outOrb = 0 :=
    F_setWidth_eq_iff t .outOrb (k := 0) (Nat.le_refl 1) (by decide) (by decide)
  have haddress : (readFields t).outAddress = BitVec.ofNat 8 (F t .outAddress).toNat :=
    (BitVec.ofNat_toNat 8 (F t .outAddress)).symm
  have hindex : (readFields t).outAddress.setWidth 4 = BitVec.ofNat 4 ((F t .outAddress).toNat % 16) := by
    rw [haddress]
    apply BitVec.eq_of_toNat_eq
    simp only [BitVec.toNat_setWidth, BitVec.toNat_ofNat]
    omega
  simp only [Fields.outDest, horb, hindex]
  rw [haddress]

end Sys2Proof

namespace Sys2Proof.Machine

/-! ### The writes of a unit -/

/-- R103: a write among the R-statement's is to its register, under a mask that is not 0. -/
theorem mem_regWrite_iff {n : BitVec 4} {m : Mask} {w : VecDest × Mask} :
    w ∈ regWrite n m ↔ m ≠ 0 ∧ w = (.reg n, m) := by
  by_cases h : m = 0 <;> simp [regWrite, h]

/-- R105: the named-output stage writes no R-register. -/
theorem ne_reg_of_mem_outWrite {x : Option NamedOut} {w : VecDest × Mask} (h : w ∈ outWrite x) (n : BitVec 4) :
    w.1 ≠ .reg n := by
  cases x with
  | none => cases h
  | some y =>
    obtain rfl := List.mem_singleton.1 h
    exact nofun

/-- R103, R105: an R-register among a unit's writes is the R-statement's. -/
theorem reg_of_mem_writes {k n : BitVec 4} {m : Mask} {x : Option NamedOut} {w : VecDest × Mask}
    (hw : w ∈ regWrite k m ++ outWrite x) (hreg : w.1 = .reg n) : n = k ∧ m ≠ 0 := by
  obtain hw | hw := List.mem_append.1 hw
  · obtain ⟨hm, rfl⟩ := mem_regWrite_iff.1 hw
    exact ⟨(VecDest.reg.inj hreg).symm, hm⟩
  · exact absurd hreg (ne_reg_of_mem_outWrite hw n)

/-- R101: the MAC of a co-issued slot has no R-write of R1. -/
theorem macWrites_ne_regOne {o : Out} (hpaired : o.paired = true) {w : VecDest × Mask} (hw : w ∈ macWrites o) :
    w.1 ≠ .reg 1 := by
  intro hreg
  obtain ⟨hone, hmask⟩ := reg_of_mem_writes hw hreg
  exact hmask (if_pos ⟨hpaired, hone.symm⟩)

/-- R102: the ILU of a co-issued slot writes R1 alone of the R-registers. -/
theorem iluWrites_regOne {o : Out} (hpaired : o.paired = true) {w : VecDest × Mask} (hw : w ∈ iluWrites o)
    {n : BitVec 4} (hreg : w.1 = .reg n) : n = 1 :=
  (reg_of_mem_writes hw hreg).1.trans (if_pos hpaired)

/-- R104, R108, R116: the writes of a MAC instruction, by its opcode. -/
theorem vecWrites_macInstr (op : MacOp) (a b c : Operand) (o : Out) : vecWrites (macInstr op a b c o) =
    if op = .nop then [] else if op = .arl then outWrite o.named else macWrites o := by
  cases op <;> rfl

/-- R108, R117: the writes of an ILU instruction, by its opcode. -/
theorem vecWrites_iluInstr (op : IluOp) (c : Operand) (o : Out) :
    vecWrites (iluInstr op c o) = if op = .nop then [] else iluWrites o := by
  cases op <;> rfl

theorem mem_macWrites_of_mem_vecWrites {op : MacOp} {a b c : Operand} {o : Out} {w : VecDest × Mask}
    (h : w ∈ vecWrites (macInstr op a b c o)) : w ∈ macWrites o := by
  rw [vecWrites_macInstr] at h
  split_ifs at h
  · cases h
  · exact List.mem_append_right _ h
  · exact h

theorem mem_iluWrites_of_mem_vecWrites {op : IluOp} {c : Operand} {o : Out} {w : VecDest × Mask}
    (h : w ∈ vecWrites (iluInstr op c o)) : w ∈ iluWrites o := by
  rw [vecWrites_iluInstr] at h
  split_ifs at h
  · cases h
  · exact h

theorem map_regWrite {α : Type} (n : BitVec 4) (m : Mask) (g : VecDest × Mask → α) :
    (regWrite n m).map g = if m ≠ 0 then [g (.reg n, m)] else [] := by
  rw [regWrite, apply_ite (List.map g)]
  exact (ite_not ..).symm

/-! ### The writes of a unit from the slot's fields -/

/-- R101: the MAC mask after the co-issue rule. -/
theorem macMask_readFields (t : Slot) : macMask ((readFields t).out .mac) =
    if F t .ilu ≠ 0 ∧ BitVec.ofNat 4 (F t .outR).toNat = 1 then 0 else BitVec.ofNat 4 (F t .outMacMask).toNat := by
  simp only [macMask, Fields.out, decide_eq_true_eq, ne_eq, readFields_ilu_eq_zero_iff, BitVec.ofNat_toNat]
  rfl

/-- R102: the ILU destination after the co-issue rule. -/
theorem iluReg_readFields (t : Slot) : iluReg ((readFields t).out .ilu) =
    if F t .mac ≠ 0 then 1 else BitVec.ofNat 4 (F t .outR).toNat := by
  simp only [iluReg, Fields.out, decide_eq_true_eq, ne_eq, readFields_mac_eq_zero_iff, BitVec.ofNat_toNat]
  rfl

/-- R105: what the named-output write of a unit becomes. -/
theorem map_outWrite_readFields {α : Type} (t : Slot) (u : UnitName) (g : VecDest × Mask → α) :
    (outWrite ((readFields t).namedOut u)).map g =
      if F t .outMux = BitVec.ofNat 32 u.sel.toNat ∧ BitVec.ofNat 4 (F t .outOMask).toNat ≠ 0 then
        [g (.out (readFields t).outDest, BitVec.ofNat 4 (F t .outOMask).toNat)]
      else [] := by
  have hmask : (readFields t).outOMask = BitVec.ofNat 4 (F t .outOMask).toNat :=
    (BitVec.ofNat_toNat 4 (F t .outOMask)).symm
  simp only [Fields.namedOut, readFields_outMux_iff, hmask]
  split_ifs <;> rfl

/-- R101, R103, R105: the writes of a non-ARL MAC instruction. -/
theorem macWrites_readFields (t : Slot) : macWrites ((readFields t).out .mac) =
    regWrite (BitVec.ofNat 4 (F t .outR).toNat)
        (if F t .ilu ≠ 0 ∧ BitVec.ofNat 4 (F t .outR).toNat = 1 then 0 else BitVec.ofNat 4 (F t .outMacMask).toNat) ++
      outWrite ((readFields t).namedOut .mac) := by
  rw [macWrites, macMask_readFields, BitVec.ofNat_toNat 4 (F t .outR)]
  rfl

/-- R102, R103, R105: the writes of an ILU instruction. -/
theorem iluWrites_readFields (t : Slot) : iluWrites ((readFields t).out .ilu) =
    regWrite (if F t .mac ≠ 0 then 1 else BitVec.ofNat 4 (F t .outR).toNat) (BitVec.ofNat 4 (F t .outIluMask).toNat) ++
      outWrite ((readFields t).namedOut .ilu) := by
  rw [iluWrites, iluReg_readFields, BitVec.ofNat_toNat 4 (F t .outIluMask)]
  rfl

/-! ### The statements of a unit -/

/-- R98: the typed statement of an instruction for one of its destinations. -/
def stmtAt (i : Instr) (e : Dest) (m : Mask) : Stmt := ⟨i.unit, opName i, e, m, i.args⟩

theorem stmtsOf_of_not_arl {i : Instr} (h : i.macOp ≠ some .arl) :
    stmtsOf i = (vecWrites i).map (fun w => stmtAt i (.vec w.1) w.2) := by
  simp [stmtsOf, stmtDests, h, stmtAt]

/-- R104: ARL's write of A0 comes before its vector writes. -/
theorem stmtsOf_of_arl {i : Instr} (h : i.macOp = some .arl) :
    stmtsOf i = stmtAt i .addrA0 0xF :: (vecWrites i).map (fun w => stmtAt i (.vec w.1) w.2) := by
  simp [stmtsOf, stmtDests, h, stmtAt]

@[simp] theorem iluInstr_macOp (op : IluOp) (c : Operand) (o : Out) : (iluInstr op c o).macOp = none := by
  cases op <;> rfl

/-- R67: the mnemonic of each MAC field value. -/
theorem macName_eq (op : MacOp) : macName op =
    ["NOP", "MOV", "MUL", "ADD", "MAD", "DP3", "DPH", "DP4", "DST", "MIN", "MAX", "SLT", "SGE", "ARL"].getD
      op.code.toNat "" := by
  cases op <;> rfl

/-- R68: the mnemonic of each ILU field value. -/
theorem iluName_eq (op : IluOp) : iluName op =
    ["NOP", "MOV", "RCP", "RCC", "RSQ", "EXP", "LOG", "LIT"].getD op.code.toNat "" := by
  cases op <;> rfl

/-- R98: the statements of a MAC instruction carry its opcode's name. -/
theorem macInstr_stmtAt (op : MacOp) (a b c : Operand) (o : Out) (e : Dest) (m : Mask) :
    stmtAt (macInstr op a b c o) e m = ⟨.mac, macName op, e, m, (macInstr op a b c o).args⟩ := by
  simp [stmtAt, opName]

/-- R98: the statements of an ILU instruction carry its opcode's name. -/
theorem iluInstr_stmtAt (op : IluOp) (c : Operand) (o : Out) (e : Dest) (m : Mask) :
    stmtAt (iluInstr op c o) e m = ⟨.ilu, iluName op, e, m, (iluInstr op c o).args⟩ := by
  simp [stmtAt, opName]

/-! ### ARL -/

/-- R150: the int32 that ARL writes. -/
theorem arlResult_spec (fp : FP) (draw : BitVec 32) (x : Lane) :
    match fp.toIntTrunc x with
    | some k => if -2 ^ 31 ≤ k ∧ k ≤ 2 ^ 31 - 1 then (arlResult fp draw x).toInt = k else arlResult fp draw x = draw
    | none => arlResult fp draw x = draw := by
  cases hx : fp.toIntTrunc x with
  | none => simp only [arlResult, hx]
  | some k =>
    have hrange : (-2 ^ 31 ≤ k ∧ k ≤ 2 ^ 31 - 1) ↔ (-2147483648 ≤ k ∧ k ≤ 2147483647) := by norm_num
    simp only [arlResult, hx, hrange]
    split_ifs with hint32
    · exact BitVec.toInt_ofInt_eq_self (by decide) hint32.1 (Int.lt_add_one_of_le hint32.2)
    · rfl

/-- R150: ARL with no named-output stage. -/
theorem exec_arl_none_of_value {a : Operand} {s : State} {v : Vec4} (h : evalOperand s a = .ok v) :
    exec (.macArl a none) s = .next (loadA0 v.x s) := by
  obtain ⟨f, hf, -⟩ | ⟨w, hw, -, e⟩ | ⟨_, _, -, hsome, -⟩ := exec_arl a none s
  · exact absurd (h.symm.trans hf) nofun
  · rw [e, Except.ok.inj (h.symm.trans hw)]
  · cases hsome

/-- R110: ARL's named-output statement runs in the state its own write of A0 leaves. -/
theorem exec_arl_some_of_value {a : Operand} {s : State} {v : Vec4} (h : evalOperand s a = .ok v) (n : NamedOut) :
    exec (.macArl a (some n)) s = finish (runArlNamed a (loadA0 v.x s)) := by
  simp only [exec, execMacArl, runArl, h]

/-- R171, R175: the named-output statement of ARL takes its operand's fault, or else ArlNamedOutput. -/
theorem runArlNamed_faults (a : Operand) (t : State) : ∃ f, runArlNamed a t = .error (f, t) ∧
    (ReadFaults t a f ∨ Readable t a ∧ f = .arlNamedOutput t.slot) := by
  obtain hread | ⟨f, hf⟩ := readable_or_readFaults t a
  · obtain ⟨v, hv⟩ := evalOperand_of_readable hread
    exact ⟨_, by simp only [runArlNamed, hv], .inr ⟨hread, rfl⟩⟩
  · exact ⟨f, by simp only [runArlNamed, evalOperand_of_readFaults hf], .inl hf⟩

end Sys2Proof.Machine

namespace Sys2Proof.Proofs

open Sys2Proof.Machine

/-- Settles O27: the other unit's opcode is what `paired` says, and under it the co-issue rules fix both destinations. -/
theorem coissuedRegisterOne : Obligations.CoissuedRegisterOne := by
  intro t d h hmac hilu
  obtain ⟨op, -, -, -, -, rfl⟩ := decodeFields_eq_ok h
  have hmacPaired : ((readFields t).out .mac).paired = true := decide_eq_true (mt (readFields_ilu_eq_zero_iff t).1 hilu)
  have hiluPaired : ((readFields t).out .ilu).paired = true := decide_eq_true (mt (readFields_mac_eq_zero_iff t).1 hmac)
  exact ⟨fun _ hw => macWrites_ne_regOne hmacPaired (mem_macWrites_of_mem_vecWrites hw),
    fun _ hw _ => iluWrites_regOne hiluPaired (mem_iluWrites_of_mem_vecWrites hw)⟩

/-- Settles O19: ARL's one statement is `loadA0`, whose value `arlResult_spec` gives. -/
theorem arlLoadsAddressRegister : Obligations.ArlLoadsAddressRegister := fun _ s v h =>
  ⟨_, exec_arl_none_of_value h, arlResult_spec Config.fp (Config.arlDraw s.draws) v.x⟩

/-- Settles O20: the second statement runs where the first left off, and `runArlNamed_faults` says how it ends. -/
theorem arlIntoNamedOutputFaults : Obligations.ArlIntoNamedOutputFaults := by
  intro a n s t hread hnext
  obtain ⟨v, hv⟩ := evalOperand_of_readable hread
  rw [exec_arl_none_of_value hv] at hnext
  cases hnext
  obtain ⟨f, hrun, hf⟩ := runArlNamed_faults a (loadA0 v.x s)
  exact ⟨f, by rw [exec_arl_some_of_value hv, hrun]; rfl, hf⟩

/-- Settles O26: each unit's writes by its opcode, read from the fields, carry the name and the operands of the opcode. -/
theorem emitterStatements : Obligations.EmitterStatements := by
  intro t d h A B C mac macNames iluNames macArgs reg om D mMask iMask iReg macStmt iluStmt macOut iluOut
  obtain ⟨hmacArgs, hiluArgs⟩ := consumedOperandsInOrder t d h
  obtain ⟨op, hop, -, -, -, rfl⟩ := decodeFields_eq_ok h
  have hmacOp := macOp_eq_iff_field hop
  have hiluOp : IluOp.ofBits (readFields t).ilu = .nop ↔ F t .ilu = 0 :=
    (iluOp_ofBits_eq_nop_iff _).trans (readFields_ilu_eq_zero_iff t)
  have hmacStmt (hne : F t .mac ≠ 0) : stmtAt (macInstr op A B C ((readFields t).out .mac)) = macStmt := by
    have hpos : (F t .mac).toNat ≠ 0 := fun hzero => hne (BitVec.eq_of_toNat_eq hzero)
    funext e m
    rw [macInstr_stmtAt, hmacArgs, if_neg hpos, macName_eq, macOp_code_toNat_field hop]
  have hiluStmt (hne : F t .ilu ≠ 0) :
      stmtAt (iluInstr (IluOp.ofBits (readFields t).ilu) C ((readFields t).out .ilu)) = iluStmt := by
    funext e m
    rw [iluInstr_stmtAt, hiluArgs, if_neg hne, iluName_eq, iluOp_code_ofBits, readFields_ilu_toNat]
  refine ⟨fun hnop => ?macNop, fun harl => ?arl, fun hne harl => ?mac, fun hnop => ?iluNop, fun hne => ?ilu⟩
  case macNop =>
    obtain rfl := (hmacOp .nop).2 hnop
    rfl
  case arl =>
    obtain rfl := (hmacOp .arl).2 harl
    have hne : F t .mac ≠ 0 := by rw [harl]; decide
    rw [stmtsOf_of_arl rfl, vecWrites_macInstr, if_neg (by decide), if_pos rfl, hmacStmt hne, out_named,
      map_outWrite_readFields, readFields_outDest]
    rfl
  case mac =>
    have hnarl : op ≠ .arl := mt (hmacOp .arl).1 harl
    rw [stmtsOf_of_not_arl (by simpa using hnarl), vecWrites_macInstr, if_neg (mt (hmacOp .nop).1 hne), if_neg hnarl,
      hmacStmt hne, macWrites_readFields, List.map_append, map_regWrite, map_outWrite_readFields, readFields_outDest]
    rfl
  case iluNop =>
    rw [hiluOp.2 hnop]
    rfl
  case ilu =>
    rw [stmtsOf_of_not_arl (by simp), vecWrites_iluInstr, if_neg (mt hiluOp.1 hne), hiluStmt hne,
      iluWrites_readFields, List.map_append, map_regWrite, map_outWrite_readFields, readFields_outDest]
    rfl

end Sys2Proof.Proofs
end

section
/-! SUPPORT. Proofs of the statements about a decoded slot: how many statements it holds (R118, R120), its NOPs (R116,
R117), and the step that runs its instruction at the cursor (R118, R134, R136, R172). -/

namespace Sys2Proof

/-- R56, R61, R90, R105, R113: each unit's instruction of a well-formed slot is well formed. -/
theorem wf_instr_of_encodable {d : SlotInstr} (h : d.Encodable) (u : UnitName) : (d.instr u).wf = true := by
  cases u with
  | mac => exact (instr_wf_iff _).2 h.mac
  | ilu => exact (instr_wf_iff _).2 h.ilu

end Sys2Proof

namespace Sys2Proof.Machine

/-! ### The number of statements -/

theorem length_regWrite_le (n : BitVec 4) (m : Mask) : (regWrite n m).length ≤ 1 := by
  unfold regWrite
  split
  · exact Nat.zero_le 1
  · exact Nat.le_refl 1

theorem length_outWrite_le (x : Option NamedOut) : (outWrite x).length ≤ 1 := by
  cases x with
  | none => exact Nat.zero_le 1
  | some n => exact Nat.le_refl 1

/-- R104, R110, R116, R117: an instruction with no destination fields has the named-output write alone, if any. -/
theorem vecWrites_of_no_out {i : Instr} (h : i.out = none) : vecWrites i = outWrite i.named := by
  unfold vecWrites
  cases i.unit <;> rw [h]

/-- R103, R105: at most one write comes before the named-output write. -/
theorem length_vecWrites_le (i : Instr) : (vecWrites i).length ≤ 1 + (outWrite i.named).length := by
  cases ho : i.out with
  | none =>
    rw [vecWrites_of_no_out ho]
    exact Nat.le_add_left ..
  | some o =>
    have hlength (n : BitVec 4) (m : Mask) :
        (regWrite n m ++ outWrite o.named).length ≤ 1 + (outWrite o.named).length := by
      rw [List.length_append]
      exact Nat.add_le_add_right (length_regWrite_le n m) _
    rw [named_of_out ho, vecWrites, ho]
    cases i.unit with
    | mac => exact hlength ..
    | ilu => exact hlength ..

/-- R103, R104, R105: an instruction has at most one statement (an R-statement or ARL's write of A0) before its
named-output statement. -/
theorem length_stmtsOf_le (i : Instr) : (stmtsOf i).length ≤ 1 + (outWrite i.named).length := by
  by_cases harl : i.macOp = some .arl
  · have hlength : (stmtsOf i).length = (vecWrites i).length + 1 := by
      rw [stmtsOf_of_arl harl, List.length_cons, List.length_map]
    obtain ⟨a, named, rfl⟩ := exists_macArl_of_macOp harl
    rw [hlength, vecWrites_of_no_out rfl, Nat.add_comm]
  · rw [stmtsOf_of_not_arl harl, List.length_map]
    exact length_vecWrites_le i

/-- R105, R118: the one named-output stage is one unit's, so the two units share it and have two statements beside it. -/
theorem length_slotStmts_le {d : SlotInstr} (h : d.Encodable) : (slotStmts d).length ≤ 3 := by
  have hmac := length_stmtsOf_le d.mac
  have hilu := length_stmtsOf_le d.ilu
  rw [slotStmts, List.length_append]
  obtain hnone | hnone := h.oneNamed
  · have hnamed := length_outWrite_le d.ilu.named
    rw [hnone, outWrite, List.length_nil] at hmac
    omega
  · have hnamed := length_outWrite_le d.mac.named
    rw [hnone, outWrite, List.length_nil] at hilu
    omega

/-! ### The step at the cursor -/

/-- R118, R136: no instruction moves the cursor. -/
theorem exec_keeps_cursor {i : Instr} {s t : State} (h : exec i s = .next t) : t.slot = s.slot ∧ t.unit = s.unit := by
  obtain ⟨v, k, u, -, ⟨⟨-, -, -, -, -, -, hslot, hunit, -⟩, -⟩, ht⟩ := exec_next_cases h
  obtain rfl | ⟨f, rfl⟩ := ht
  · exact ⟨hslot, hunit⟩
  · exact ⟨hslot, hunit⟩

/-- R124, R126: inside the body, the record at the cursor holds the decoding of the slot there. -/
theorem fetch_of_inv {s : State} {w : Slot} {d : SlotInstr} (hinv : s.Inv) (hin : s.slot < s.trans.body.length)
    (hw : s.program[s.slot]? = some w) (hd : decodeSlot w = .ok d) : fetch s = some (d.instr s.unit) := by
  obtain ⟨⟨hrecord, -⟩, -⟩ := hinv
  have hbody : s.trans.body[s.slot]? = some s.trans.body[s.slot] := List.getElem?_eq_getElem hin
  obtain ⟨-, hwords, hcode⟩ := hrecord s.slot _ hbody
  have hslot : s.trans.body[s.slot].words = w := Option.some.inj (hwords.symm.trans hw)
  have hdecoded : s.trans.body[s.slot].code = d := Except.ok.inj (hcode.symm.trans (hslot ▸ hd))
  rw [fetch_of_record hbody, hdecoded]

end Sys2Proof.Machine

namespace Sys2Proof.Proofs

open Sys2Proof.Machine

/-- Settles O28: a decoded slot is well formed, so `length_slotStmts_le` bounds its statements; that NOPs have none is
`emitterStatements`. -/
theorem atMostThreeStatements : Obligations.AtMostThreeStatements := by
  intro t d h
  obtain ⟨hmacNop, -, -, hiluNop, -⟩ := emitterStatements t d h
  refine ⟨length_slotStmts_le (decodeFields_encodable h), rfl, fun hmac hilu => ?_⟩
  rw [slotStmts, hmacNop hmac, hiluNop hilu, List.append_nil]

/-- Settles O21: a NOP has no statement to run. -/
theorem nopsChangeNothing : Obligations.NopsChangeNothing := fun s =>
  ⟨exec_of_no_statement (i := .macNop) rfl s, exec_of_no_statement (i := .iluNop) rfl s⟩

/-- Settles O47: the instruction fetched is that of the decoding (`fetch_of_inv`), it answers a next state with the cursor
where it was, and `advance` moves on from there. -/
theorem stepRunsDecodedInstruction : Obligations.StepRunsDecodedInstruction := by
  intro s w d hinv hstage hin hw hd
  obtain ⟨t, ht⟩ := exec_answers_next (d.instr s.unit) s
  obtain ⟨hslot, hunit⟩ := exec_keeps_cursor ht
  have hstep : step s = .next (advance t) := by
    rw [step_executing hstage, bodyStep_inside (fetch_of_inv hinv hin hw hd) ht]
  refine ⟨wf_instr_of_encodable (decodeFields_encodable hd) s.unit, t, ht, fun hrun hmac => ?mac, fun hrun hilu => ?ilu,
    fun hended => ?ended⟩
  case mac => rw [hstep, advance_mac hrun (hunit.trans hmac)]
  case ilu => rw [hstep, advance_ilu hrun (hunit.trans hilu), hslot]
  case ended => rw [hstep, advance_other hended]

end Sys2Proof.Proofs
end

section
/-! SUPPORT. Proofs of the statements about the translator: the scan and the translation as one function (R124 to R131),
and the text of a translation and of a slot (R125, R129, R130). -/

namespace Sys2Proof.Machine

/-! ### The translation, slot by slot -/

/-- R128: the scan ends at a slot that does not decode. -/
theorem translateFrom_decode_error {w : Slot} {e : DecodeFault} (h : decodeSlot w = .error e) (N k : Nat)
    (ws : List Slot) : translateFrom N k (w :: ws) = .error (Fault.ofDecode k e) := by
  simp [translateFrom, h]

/-- R124: past a slot that is not final the scan gives that slot's record and what the slots behind it give. -/
theorem translateFrom_cons_not_final {w : Slot} {d : SlotInstr} (h : decodeSlot w = .ok d) (hf : d.final = false)
    (N k : Nat) (ws : List Slot) :
    translateFrom N k (w :: ws) = (translateFrom N (k + 1) ws).map (⟨k, w, d⟩ :: ·) := by
  simp only [translateFrom, h, hf]
  cases translateFrom N (k + 1) ws with
  | error f => rfl
  | ok rest => rfl

/-! ### The scan, step by step -/

/-- s about to scan slot k, with the records `body` of the slots before it. -/
def State.scanningAt (s : State) (k : Nat) (body : List SlotRecord) : State :=
  { s with trans := ⟨.scanning, k, body, none⟩, stage := .translating }

/-- s after a translation that ended DONE at slot k with the records `body`. -/
def State.translatedAt (s : State) (k : Nat) (body : List SlotRecord) : State :=
  { s with trans := ⟨.done, k, body, none⟩, stage := .prologue }

/-- s after a translation that ended in fault f at slot k. -/
def State.failedAt (s : State) (k : Nat) (f : Fault) : State :=
  { s with trans := ⟨.fault, k, [], some f⟩, stage := .ended }

theorem scanningAt_initial {s : State} (hs : s.stage = .translating) (ht : s.trans = .initial) :
    s.scanningAt 0 [] = s := by
  cases s
  cases hs
  cases ht
  rfl

section
variable {s : State} {k : Nat} {w : Slot} (body : List SlotRecord)

/-- R127: the scan of a slot beyond the last. -/
theorem step_scanningAt_exhausted (hw : s.program[k]? = none) :
    step (s.scanningAt k body) = .next (s.failedAt k (.malformedProgram s.program.length)) := by
  have hscan : scanSlot (s.scanningAt k body) = s.failedAt k (.malformedProgram s.program.length) := by
    simp only [scanSlot, State.scanningAt, hw]
    rfl
  exact congrArg _ hscan

/-- R128: the scan of a slot that does not decode. -/
theorem step_scanningAt_decode_error {e : DecodeFault} (hw : s.program[k]? = some w) (hd : decodeSlot w = .error e) :
    step (s.scanningAt k body) = .next (s.failedAt k (Fault.ofDecode k e)) := by
  have hscan : scanSlot (s.scanningAt k body) = s.failedAt k (Fault.ofDecode k e) := by
    simp only [scanSlot, State.scanningAt, hw, hd]
    rfl
  exact congrArg _ hscan

/-- R124: the scan of a slot that decodes. -/
theorem step_scanningAt_decoded {d : SlotInstr} (hw : s.program[k]? = some w) (hd : decodeSlot w = .ok d) :
    step (s.scanningAt k body) = .next (if d.final then s.translatedAt k (body ++ [⟨k, w, d⟩])
      else s.scanningAt (k + 1) (body ++ [⟨k, w, d⟩])) := by
  have hscan : scanSlot (s.scanningAt k body) = acceptSlot w d (s.scanningAt k body) := by
    simp only [scanSlot, State.scanningAt, hw, hd]
  exact congrArg _ hscan

end

/-- What the scan of the slots from k on leads to, by what `translateFrom` gives for them. -/
def ScanRuns (s : State) (k : Nat) (ws : List Slot) (body : List SlotRecord) : Prop :=
  (∀ rest, translateFrom s.program.length k ws = .ok rest →
    Sys2Proof.core.run rest.length (s.scanningAt k body) =
      .next (s.translatedAt (k + rest.length - 1) (body ++ rest))) ∧
  (∀ f, translateFrom s.program.length k ws = .error f →
    ∃ n, n ≤ ws.length ∧ Sys2Proof.core.run (n + 1) (s.scanningAt k body) = .next (s.failedAt (k + n) f))

/-- One step that takes the fault `translateFrom` gives. -/
theorem scanRuns_of_failed {s : State} {k : Nat} {ws : List Slot} {body : List SlotRecord} {f : Fault}
    (htranslate : translateFrom s.program.length k ws = .error f)
    (hstep : step (s.scanningAt k body) = .next (s.failedAt k f)) : ScanRuns s k ws body := by
  refine ⟨fun rest h => absurd (htranslate.symm.trans h) nofun, fun g h => ⟨0, Nat.zero_le _, ?_⟩⟩
  cases htranslate.symm.trans h
  exact core_run_next hstep 0

theorem scanRuns_of_final {s : State} {k : Nat} {w : Slot} {d : SlotInstr} (ws : List Slot) (body : List SlotRecord)
    (hw : s.program[k]? = some w) (hd : decodeSlot w = .ok d) (hf : d.final = true) : ScanRuns s k (w :: ws) body := by
  have htranslate := translateFrom_final hd hf s.program.length k ws
  have hstep := step_scanningAt_decoded body hw hd
  rw [if_pos hf] at hstep
  refine ⟨fun rest h => ?_, fun f h => absurd (htranslate.symm.trans h) nofun⟩
  cases htranslate.symm.trans h
  exact core_run_next hstep 0

theorem scanRuns_of_not_final {s : State} {k : Nat} {w : Slot} {d : SlotInstr} {ws : List Slot} {body : List SlotRecord}
    (hw : s.program[k]? = some w) (hd : decodeSlot w = .ok d) (hf : d.final = false)
    (ih : ScanRuns s (k + 1) ws (body ++ [⟨k, w, d⟩])) : ScanRuns s k (w :: ws) body := by
  have hstep := step_scanningAt_decoded body hw hd
  rw [if_neg (by simp [hf])] at hstep
  have htranslate := translateFrom_cons_not_final hd hf s.program.length k ws
  obtain ⟨ihok, iherror⟩ := ih
  cases hrest : translateFrom s.program.length (k + 1) ws with
  | ok rest =>
    rw [hrest] at htranslate
    refine ⟨fun all h => ?_, fun f h => absurd (htranslate.symm.trans h) nofun⟩
    cases htranslate.symm.trans h
    rw [List.length_cons, core_run_next hstep, ihok rest hrest, List.append_assoc, Nat.add_right_comm k 1]
    rfl
  | error g =>
    rw [hrest] at htranslate
    refine ⟨fun all h => absurd (htranslate.symm.trans h) nofun, fun f h => ?_⟩
    cases htranslate.symm.trans h
    obtain ⟨n, hn, hrun⟩ := iherror g hrest
    refine ⟨n + 1, Nat.succ_le_succ hn, ?_⟩
    rw [core_run_next hstep, hrun, Nat.add_right_comm k 1]
    rfl

/-- R124 to R128: from slot k on, the steps of the scan compute `translateFrom` of the slots from there. -/
theorem scanRuns_drop (s : State) : ∀ (ws : List Slot) (k : Nat) (body : List SlotRecord), s.program.drop k = ws →
    ScanRuns s k ws body
  | [], k, body, hdrop => by
    have hw : s.program[k]? = none := List.getElem?_eq_none (List.drop_eq_nil_iff.1 hdrop)
    exact scanRuns_of_failed rfl (step_scanningAt_exhausted body hw)
  | w :: ws, k, body, hdrop => by
    have hw : s.program[k]? = some w := by
      have hhead : (s.program.drop k)[0]? = some w := by rw [hdrop]; rfl
      rwa [List.getElem?_drop] at hhead
    have htail : s.program.drop (k + 1) = ws := by rw [← List.tail_drop, hdrop]; rfl
    cases hd : decodeSlot w with
    | error e => exact scanRuns_of_failed (translateFrom_decode_error hd ..) (step_scanningAt_decode_error body hw hd)
    | ok d =>
      cases hf : d.final with
      | true => exact scanRuns_of_final ws body hw hd hf
      | false => exact scanRuns_of_not_final hw hd hf (scanRuns_drop s ws (k + 1) _ htail)

/-! ### Text -/

/-- R125: the eight hexadecimal digits of a word, the most significant first. -/
theorem hex8_eq (w : Word) : hex8 w =
    "0x" ++ hexDigit (w.toNat / 2 ^ 28) ++ hexDigit (w.toNat / 2 ^ 24) ++ hexDigit (w.toNat / 2 ^ 20)
      ++ hexDigit (w.toNat / 2 ^ 16) ++ hexDigit (w.toNat / 2 ^ 12) ++ hexDigit (w.toNat / 2 ^ 8)
      ++ hexDigit (w.toNat / 2 ^ 4) ++ hexDigit w.toNat := by
  simp only [hex8, List.map_cons, List.map_nil, String.join_cons, String.join_nil, Nat.shiftRight_eq_div_pow,
    String.append_assoc, String.append_empty, Nat.pow_zero, Nat.div_one]

/-- R125: the text of a slot, with its trace comment written out. -/
theorem slotText_eq (r : SlotRecord) : slotText r =
    "  /* Slot " ++ Nat.repr r.index ++ ": " ++ hex8 r.words.w0 ++ " " ++ hex8 r.words.w1 ++ " " ++ hex8 r.words.w2
      ++ " " ++ hex8 r.words.w3 ++ " */\n" ++ String.join ((slotStmts r.code).map stmtText) ++ "\n" := by
  simp only [slotText, traceComment, wordsText, String.append_assoc]

end Sys2Proof.Machine

namespace Sys2Proof.Proofs

open Sys2Proof.Machine

/-- Settles O38: the scan from slot 0 with no records is `scanRuns_drop` of the whole program. -/
theorem stepwiseScanIsTranslate : Obligations.StepwiseScanIsTranslate := by
  intro s hs ht
  have hstart := scanningAt_initial hs ht
  obtain ⟨hok, herror⟩ := scanRuns_drop s s.program 0 [] rfl
  rw [hstart] at hok herror
  refine ⟨fun body h => ?translates, fun f h => ?fails⟩
  case translates =>
    have hrun := hok body h
    rw [Nat.zero_add] at hrun
    exact hrun
  case fails =>
    obtain ⟨n, hn, hrun⟩ := herror f h
    rw [Nat.zero_add] at hrun
    exact ⟨n, hn, hrun⟩

/-- Settles O39: the records depend neither on what follows the final slot nor on the number of slots. -/
theorem slotsAfterFinalNeverRead : Obligations.SlotsAfterFinalNeverRead := fun P Q body h =>
  translateFrom_append P Q P.length (P ++ Q).length 0 body h

/-- Settles O40: behind the slots of P stands the end of the stream, which is `MalformedProgram`. -/
theorem noFinalSlotIsMalformed : Obligations.NoFinalSlotIsMalformed := by
  intro P hP
  have hend : translateFrom P.length (0 + P.length) [] = .error (.malformedProgram P.length) := rfl
  have hscan := translateFrom_error_after P [] P.length 0 hP _ hend
  rwa [List.append_nil] at hscan

/-- Settles O41: behind the slots of P stands w, which the scan cannot decode. -/
theorem firstDecodeFaultEndsTranslation : Obligations.FirstDecodeFaultEndsTranslation := by
  intro P Q w hP
  have hfails {e : DecodeFault} (he : decodeSlot w = .error e) :
      translateProgram (P ++ w :: Q) = .error (Fault.ofDecode P.length e) := by
    refine translateFrom_error_after P (w :: Q) (P ++ w :: Q).length 0 hP _ ?_
    rw [translateFrom_decode_error he, Nat.zero_add]
  exact ⟨fun x he => hfails he, fun v he => hfails he⟩

/-- Settles O45, by the mode of the translator. -/
theorem textOnlyWhenDone : Obligations.TextOnlyWhenDone := by
  intro t
  cases hmode : t.mode with
  | done => exact ⟨fun _ => by simp only [outputText, hmode, bodyText], fun h => absurd rfl h⟩
  | scanning => exact ⟨nofun, fun _ => by simp only [outputText, hmode]⟩
  | fault => exact ⟨nofun, fun _ => by simp only [outputText, hmode]⟩

/-- Settles O60: `slotText_eq` with each word's digits by `hex8_eq`. -/
theorem slotTextIsCanonical : Obligations.SlotTextIsCanonical := by
  intro r
  simp only [slotText_eq, hex8_eq]
  rfl

end Sys2Proof.Proofs
end

section
/-! SUPPORT. Proofs of the statements about the invariant of the machine: every step keeps it and brings the end of the
run nearer (R124 to R130, R134, R135), what a run that has ended answers (R177), and its epilogue (R132, R133). -/

namespace Sys2Proof.Machine

/-! ### What the invariant says of the translator -/

/-- A list with one more element holds what the list holds, and that element behind it. -/
theorem forall_getElem?_concat {α : Type} {l : List α} {x : α} {p : Nat → α → Prop} :
    (∀ j r, (l ++ [x])[j]? = some r → p j r) ↔ (∀ j r, l[j]? = some r → p j r) ∧ p l.length x := by
  constructor
  · intro h
    refine ⟨fun j r hj => h j r ?_, h _ x List.getElem?_concat_length⟩
    rw [List.getElem?_append_left (List.getElem?_eq_some_iff.1 hj).1, hj]
  · rintro ⟨hl, hx⟩ j r hj
    obtain hlt | rfl | hgt := Nat.lt_trichotomy j l.length
    · rw [List.getElem?_append_left hlt] at hj
      exact hl j r hj
    · rw [List.getElem?_concat_length] at hj
      cases hj
      exact hx
    · rw [List.getElem?_eq_none (by simpa using hgt)] at hj
      cases hj

/-- R124: the body has a record for slots of the stream only. -/
theorem transInv_length_le {P : List Slot} {t : TransState} (h : TransInv P t) : t.body.length ≤ P.length := by
  obtain ⟨hrecord, -⟩ := h
  by_contra hlong
  have hin : P.length < t.body.length := Nat.lt_of_not_le hlong
  obtain ⟨-, hslot, -⟩ := hrecord P.length _ (List.getElem?_eq_getElem hin)
  rw [List.getElem?_eq_none (Nat.le_refl _)] at hslot
  cases hslot

/-- R124, R126: while the scan goes on, the cursor stands behind the records and none of them is final. -/
theorem transInv_scanning {P : List Slot} {t : TransState} (h : TransInv P t) (hmode : t.mode = .scanning) :
    t.k = t.body.length ∧ t.k ≤ P.length ∧ t.fault = none ∧
      ∀ (j : Nat) (r : SlotRecord), t.body[j]? = some r → r.code.final = false := by
  obtain ⟨-, hfinal, hm⟩ := h
  rw [hmode] at hm
  obtain ⟨hk, hle, hfault⟩ := hm
  refine ⟨hk, hle, hfault, fun j r hj => Bool.eq_false_iff.2 fun hr => ?_⟩
  obtain ⟨hdone, -⟩ := hfinal j r hj hr
  rw [hmode] at hdone
  cases hdone

/-- R126, R130: a translation that is DONE has no fault. -/
theorem transInv_done {P : List Slot} {t : TransState} (h : TransInv P t) (hmode : t.mode = .done) : t.fault = none := by
  obtain ⟨-, -, hm⟩ := h
  rw [hmode] at hm
  obtain ⟨-, hfault, -⟩ := hm
  exact hfault

/-- R128, R166: a translation in FAULT has its fault and no body. -/
theorem transInv_fault {P : List Slot} {t : TransState} (h : TransInv P t) (hmode : t.mode = .fault) :
    t.body = [] ∧ ∃ f, t.fault = some f := by
  obtain ⟨-, -, hm⟩ := h
  rw [hmode] at hm
  obtain ⟨hbody, hfault⟩ := hm
  exact ⟨hbody, Option.isSome_iff_exists.1 hfault⟩

/-! ### What the invariant says of the run -/

section
variable {s : State}

theorem runInv_translating (h : s.stage = .translating) : RunInv s ↔ s.trans.mode = .scanning ∧ s.outputs = none := by
  simp only [RunInv, h]

theorem runInv_prologue (h : s.stage = .prologue) : RunInv s ↔ s.trans.mode = .done ∧ s.outputs = none := by
  simp only [RunInv, h]

theorem runInv_executing (h : s.stage = .executing) : RunInv s ↔
    s.trans.mode = .done ∧ s.outputs = none ∧ s.vertex.fault = none ∧ s.slot ≤ s.trans.body.length ∧
      (s.slot = s.trans.body.length → s.unit = .mac) := by
  simp only [RunInv, h]

theorem runInv_ended (h : s.stage = .ended) : RunInv s ↔
    s.trans.mode = .fault ∧ s.outputs = none ∨
      s.trans.mode = .done ∧ (s.outputs.isSome ↔ s.vertex.fault = none) := by
  simp only [RunInv, h]

end

/-! ### A bound on the steps left -/

/-- R134: a bound on the steps from s to the end of its run, counted by the model's cut of the run (log entry 6): one a
slot of the scan, two a slot of the body, the prologue and the epilogue. While the scan goes on the length of the body is
not known, and that of the whole stream stands for it. -/
def State.stepsLeft (s : State) : Nat :=
  match s.stage, s.unit with
  | .translating, _ => (s.program.length - s.trans.k) + 2 * s.program.length + 3
  | .prologue, _ => 2 * s.trans.body.length + 2
  | .executing, .mac => 2 * (s.trans.body.length - s.slot) + 1
  | .executing, .ilu => 2 * (s.trans.body.length - s.slot)
  | .ended, _ => 0

section
variable {s : State}

theorem stepsLeft_translating (h : s.stage = .translating) :
    s.stepsLeft = (s.program.length - s.trans.k) + 2 * s.program.length + 3 := by
  simp only [State.stepsLeft, h]

theorem stepsLeft_prologue (h : s.stage = .prologue) : s.stepsLeft = 2 * s.trans.body.length + 2 := by
  simp only [State.stepsLeft, h]

theorem stepsLeft_executing_mac (h : s.stage = .executing) (hu : s.unit = .mac) :
    s.stepsLeft = 2 * (s.trans.body.length - s.slot) + 1 := by
  simp only [State.stepsLeft, h, hu]

theorem stepsLeft_executing_ilu (h : s.stage = .executing) (hu : s.unit = .ilu) :
    s.stepsLeft = 2 * (s.trans.body.length - s.slot) := by
  simp only [State.stepsLeft, h, hu]

theorem stepsLeft_ended (h : s.stage = .ended) : s.stepsLeft = 0 := by
  simp only [State.stepsLeft, h]

end

theorem stepsLeft_scanningAt (s : State) (k : Nat) (body : List SlotRecord) :
    (s.scanningAt k body).stepsLeft = (s.program.length - k) + 2 * s.program.length + 3 := rfl

theorem stepsLeft_translatedAt (s : State) (k : Nat) (body : List SlotRecord) :
    (s.translatedAt k body).stepsLeft = 2 * body.length + 2 := rfl

/-- R134: no state of the invariant has more than three steps a slot and three more left. -/
theorem stepsLeft_le {s : State} (h : s.Inv) : s.stepsLeft ≤ 3 * s.program.length + 3 := by
  obtain ⟨htrans, -⟩ := h
  have hlength := transInv_length_le htrans
  cases hs : s.stage with
  | translating => rw [stepsLeft_translating hs]; omega
  | prologue => rw [stepsLeft_prologue hs]; omega
  | executing =>
    cases hu : s.unit with
    | mac => rw [stepsLeft_executing_mac hs hu]; omega
    | ilu => rw [stepsLeft_executing_ilu hs hu]; omega
  | ended => rw [stepsLeft_ended hs]; omega

/-! ### Progress of every step -/

/-- t has the invariant and is nearer to the end of the run than s. -/
def Progress (s t : State) : Prop := t.Inv ∧ t.stepsLeft < s.stepsLeft

/-! #### The scan -/

/-- R124: a state of the invariant whose scan goes on is about to scan the slot at its cursor. -/
theorem scanningAt_self {s : State} (hinv : s.Inv) (hs : s.stage = .translating) :
    s.scanningAt s.trans.k s.trans.body = s := by
  obtain ⟨htrans, hrun⟩ := hinv
  obtain ⟨hmode, -⟩ := (runInv_translating hs).1 hrun
  obtain ⟨-, -, hfault, -⟩ := transInv_scanning htrans hmode
  have htr : (⟨.scanning, s.trans.k, s.trans.body, none⟩ : TransState) = s.trans := by rw [← hmode, ← hfault]
  rw [State.scanningAt, htr, ← hs]

/-- R166: a translation fault ends the run with no body. -/
theorem progress_failedAt {s : State} (hinv : s.Inv) (hs : s.stage = .translating) (k : Nat) (f : Fault) :
    Progress s (s.failedAt k f) := by
  obtain ⟨-, houtputs⟩ := (runInv_translating hs).1 hinv.2
  have hempty (j : Nat) (r : SlotRecord) : ([] : List SlotRecord)[j]? ≠ some r := by simp
  have htrans : TransInv s.program ⟨.fault, k, [], some f⟩ :=
    ⟨fun j r h => absurd h (hempty j r), fun j r h => absurd h (hempty j r), rfl, rfl⟩
  refine ⟨⟨htrans, (runInv_ended rfl).2 (.inl ⟨rfl, houtputs⟩)⟩, ?_⟩
  rw [stepsLeft_ended rfl, stepsLeft_translating hs]
  exact Nat.succ_pos _

theorem length_appendRecord (t : TransState) (w : Slot) (d : SlotInstr) :
    (appendRecord t w d).length = t.body.length + 1 := by
  rw [appendRecord, List.length_append, List.length_singleton]

section
variable {s : State} {w : Slot} {d : SlotInstr} (hinv : s.Inv) (hs : s.stage = .translating)
  (hw : s.program[s.trans.k]? = some w) (hd : decodeSlot w = .ok d)
include hinv hs hw hd

/-- R124: the new record is that of its slot, as the others are. -/
theorem recordOf_appendRecord : ∀ j r, (appendRecord s.trans w d)[j]? = some r → RecordOf s.program j r := by
  obtain ⟨htrans, hrun⟩ := hinv
  obtain ⟨hmode, -⟩ := (runInv_translating hs).1 hrun
  obtain ⟨hk, -⟩ := transInv_scanning htrans hmode
  obtain ⟨hrecord, -⟩ := htrans
  have hnew : RecordOf s.program s.trans.body.length ⟨s.trans.k, w, d⟩ := by
    rw [← hk]
    exact ⟨rfl, hw, hd⟩
  exact forall_getElem?_concat.2 ⟨hrecord, hnew⟩

/-- R126: a final slot ends the scan. -/
theorem progress_translatedAt (hf : d.final = true) :
    Progress s (s.translatedAt s.trans.k (appendRecord s.trans w d)) := by
  have hrecord := recordOf_appendRecord hinv hs hw hd
  obtain ⟨htrans, hrun⟩ := hinv
  obtain ⟨hmode, houtputs⟩ := (runInv_translating hs).1 hrun
  obtain ⟨hk, -, -, hnone⟩ := transInv_scanning htrans hmode
  have hin : s.trans.k < s.program.length := (List.getElem?_eq_some_iff.1 hw).1
  have hlength : s.trans.k + 1 = (appendRecord s.trans w d).length := by rw [length_appendRecord, hk]
  have hlast : (appendRecord s.trans w d)[s.trans.k]? = some ⟨s.trans.k, w, d⟩ := by
    rw [appendRecord, hk]
    exact List.getElem?_concat_length
  have hfinal : ∀ j r, (appendRecord s.trans w d)[j]? = some r → r.code.final = true → j + 1 = s.trans.k + 1 := by
    rw [hk]
    refine forall_getElem?_concat.2 ⟨fun j r hj hr => ?_, fun _ => rfl⟩
    rw [hnone j r hj] at hr
    cases hr
  have hdone : TransInv s.program ⟨.done, s.trans.k, appendRecord s.trans w d, none⟩ :=
    ⟨hrecord, fun j r hj hr => ⟨rfl, (hfinal j r hj hr).trans hlength⟩, hlength, rfl, _, hlast, hf⟩
  refine ⟨⟨hdone, (runInv_prologue rfl).2 ⟨rfl, houtputs⟩⟩, ?_⟩
  rw [stepsLeft_translatedAt, stepsLeft_translating hs, ← hlength]
  omega

/-- R124, R136: a slot that is not final moves the cursor on. -/
theorem progress_scanningAt (hf : d.final = false) :
    Progress s (s.scanningAt (s.trans.k + 1) (appendRecord s.trans w d)) := by
  have hrecord := recordOf_appendRecord hinv hs hw hd
  obtain ⟨htrans, hrun⟩ := hinv
  obtain ⟨hmode, houtputs⟩ := (runInv_translating hs).1 hrun
  obtain ⟨hk, -, -, hnone⟩ := transInv_scanning htrans hmode
  have hin : s.trans.k < s.program.length := (List.getElem?_eq_some_iff.1 hw).1
  have hlength : s.trans.k + 1 = (appendRecord s.trans w d).length := by rw [length_appendRecord, hk]
  have hnotFinal : ∀ (j : Nat) (r : SlotRecord), (appendRecord s.trans w d)[j]? = some r →
      r.code.final = false :=
    forall_getElem?_concat.2 ⟨hnone, hf⟩
  have hscanning : TransInv s.program ⟨.scanning, s.trans.k + 1, appendRecord s.trans w d, none⟩ := by
    refine ⟨hrecord, fun j r hj hr => ?_, hlength, hin, rfl⟩
    rw [hnotFinal j r hj] at hr
    cases hr
  refine ⟨⟨hscanning, (runInv_translating rfl).2 ⟨rfl, houtputs⟩⟩, ?_⟩
  rw [stepsLeft_scanningAt, stepsLeft_translating hs]
  omega

end

/-- R124 to R128: every turn of the scan answers a state that makes progress. -/
theorem scan_progress {s : State} (hinv : s.Inv) (hs : s.stage = .translating) :
    ∃ t, step s = .next t ∧ Progress s t := by
  have hself := scanningAt_self hinv hs
  cases hw : s.program[s.trans.k]? with
  | none =>
    have hstep := step_scanningAt_exhausted s.trans.body hw
    rw [hself] at hstep
    exact ⟨_, hstep, progress_failedAt hinv hs ..⟩
  | some w =>
    cases hd : decodeSlot w with
    | error e =>
      have hstep := step_scanningAt_decode_error s.trans.body hw hd
      rw [hself] at hstep
      exact ⟨_, hstep, progress_failedAt hinv hs ..⟩
    | ok d =>
      have hstep := step_scanningAt_decoded s.trans.body hw hd
      rw [hself] at hstep
      refine ⟨_, hstep, ?_⟩
      cases hf : d.final with
      | true => exact progress_translatedAt hinv hs hw hd hf
      | false => exact progress_scanningAt hinv hs hw hd hf

/-! #### The invocation -/

/-- R187: the prologue makes progress. -/
theorem progress_prologueStep {s : State} (hinv : s.Inv) (hs : s.stage = .prologue) : Progress s (prologueStep s) := by
  obtain ⟨htrans, hrun⟩ := hinv
  obtain ⟨hmode, -⟩ := (runInv_prologue hs).1 hrun
  refine ⟨⟨htrans, (runInv_executing rfl).2 ⟨hmode, rfl, rfl, Nat.zero_le _, fun _ => rfl⟩⟩, ?_⟩
  rw [stepsLeft_executing_mac rfl rfl, stepsLeft_prologue hs]
  show 2 * (s.trans.body.length - 0) + 1 < _
  omega

/-- R132, R135: the epilogue ends the run with its outputs. -/
theorem progress_epilogueStep {s : State} (hinv : s.Inv) (hs : s.stage = .executing)
    (hpast : s.trans.body.length ≤ s.slot) : Progress s (epilogueStep s) := by
  obtain ⟨htrans, hrun⟩ := hinv
  obtain ⟨hmode, -, hfault, hle, hunit⟩ := (runInv_executing hs).1 hrun
  have hend : s.slot = s.trans.body.length := Nat.le_antisymm hle hpast
  refine ⟨⟨htrans, (runInv_ended rfl).2 (.inr ⟨hmode, fun _ => hfault, fun _ => rfl⟩)⟩, ?_⟩
  rw [stepsLeft_ended rfl, stepsLeft_executing_mac hs (hunit hend)]
  omega

/-- The invariant speaks of the run around the statements and of the fault mark only. -/
theorem inv_of_sameRun {s u : State} (hinv : s.Inv) (hsame : SameRun s u) (hfault : u.vertex.fault = s.vertex.fault) :
    u.Inv := by
  obtain ⟨hprogram, htrans, -, -, -, hstage, hslot, hunit, houtputs⟩ := hsame
  simpa only [State.Inv, RunInv, hprogram, htrans, hstage, hslot, hunit, houtputs, hfault] using hinv

theorem stepsLeft_of_sameRun {s u : State} (hsame : SameRun s u) : u.stepsLeft = s.stepsLeft := by
  obtain ⟨hprogram, htrans, -, -, -, hstage, hslot, hunit, -⟩ := hsame
  simp only [State.stepsLeft, hprogram, htrans, hstage, hslot, hunit]

/-- R118, R172: an instruction keeps the invariant and the cursor, and after that a fault may be taken. -/
theorem exec_keeps_inv {i : Instr} {s t : State} (hinv : s.Inv) (h : exec i s = .next t) :
    ∃ u, SameRun s u ∧ u.Inv ∧ (t = u ∨ ∃ f, t = takeExecutionFault f u) := by
  obtain ⟨v, k, u, -, ⟨hsame, -, -, -, -, hfault, -⟩, ht⟩ := exec_next_cases h
  exact ⟨u, hsame, inv_of_sameRun hinv hsame hfault, ht⟩

section
variable {s : State} (hinv : s.Inv) (hs : s.stage = .executing) (hin : s.slot < s.trans.body.length)
include hinv hs hin

/-- R118, R136: moving past an instruction of the body makes progress. -/
theorem progress_advance : Progress s (advance s) := by
  obtain ⟨htrans, hrun⟩ := hinv
  obtain ⟨hmode, houtputs, hfault, -, -⟩ := (runInv_executing hs).1 hrun
  cases hu : s.unit with
  | mac =>
    rw [advance_mac hs hu]
    have hnext : RunInv { s with unit := .ilu } := (runInv_executing (s := { s with unit := .ilu }) hs).2
      ⟨hmode, houtputs, hfault, Nat.le_of_lt hin, fun hend => absurd hend (Nat.ne_of_lt hin)⟩
    refine ⟨⟨htrans, hnext⟩, ?_⟩
    rw [stepsLeft_executing_ilu (s := { s with unit := .ilu }) hs rfl, stepsLeft_executing_mac hs hu]
    exact Nat.lt_succ_self _
  | ilu =>
    rw [advance_ilu hs hu]
    have hnext : RunInv { s with slot := s.slot + 1, unit := .mac } :=
      (runInv_executing (s := { s with slot := s.slot + 1, unit := .mac }) hs).2
        ⟨hmode, houtputs, hfault, hin, fun _ => rfl⟩
    refine ⟨⟨htrans, hnext⟩, ?_⟩
    rw [stepsLeft_executing_mac (s := { s with slot := s.slot + 1, unit := .mac }) hs rfl,
      stepsLeft_executing_ilu hs hu]
    show 2 * (s.trans.body.length - (s.slot + 1)) + 1 < 2 * (s.trans.body.length - s.slot)
    omega

theorem stepsLeft_pos_inside : 0 < s.stepsLeft := Nat.zero_lt_of_lt (progress_advance hinv hs hin).2

/-- R172: an execution fault ends the run without outputs. -/
theorem progress_takeExecutionFault (f : Fault) : Progress s (takeExecutionFault f s) := by
  have hpos := stepsLeft_pos_inside hinv hs hin
  obtain ⟨htrans, hrun⟩ := hinv
  obtain ⟨hmode, houtputs, -⟩ := (runInv_executing hs).1 hrun
  have hend : (takeExecutionFault f s).outputs.isSome ↔ (takeExecutionFault f s).vertex.fault = none := by
    simp [houtputs]
  refine ⟨⟨htrans, (runInv_ended rfl).2 (.inr ⟨hmode, hend⟩)⟩, ?_⟩
  rwa [stepsLeft_ended rfl]

end

/-- R134: every step of a running body answers a state that makes progress. -/
theorem bodyStep_progress {s : State} (hinv : s.Inv) (hs : s.stage = .executing) :
    ∃ t, bodyStep s = .next t ∧ Progress s t := by
  obtain hin | hpast := Nat.lt_or_ge s.slot s.trans.body.length
  · have hfetch := fetch_of_record (List.getElem?_eq_getElem hin)
    obtain ⟨t, ht⟩ := exec_answers_next _ s
    refine ⟨advance t, bodyStep_inside hfetch ht, ?_⟩
    obtain ⟨u, hsame, huinv, htu⟩ := exec_keeps_inv hinv ht
    have ⟨_, htrans, _, _, _, hstage, hslot, _⟩ := hsame
    have huin : u.slot < u.trans.body.length := by rwa [hslot, htrans]
    rw [Progress, ← stepsLeft_of_sameRun hsame]
    obtain rfl | ⟨f, rfl⟩ := htu
    · exact progress_advance huinv (hstage.trans hs) huin
    · rw [advance_other (by simp)]
      exact progress_takeExecutionFault huinv (hstage.trans hs) huin f
  · exact ⟨_, bodyStep_past hpast, progress_epilogueStep hinv hs hpast⟩

/-- R124, R134: from every state of the invariant whose run has not ended, the step answers a state that has the
invariant and is nearer to the end. -/
theorem step_progress {s : State} (hinv : s.Inv) (hs : s.stage ≠ .ended) :
    ∃ t, step s = .next t ∧ Progress s t := by
  cases h : s.stage with
  | translating => exact scan_progress hinv h
  | prologue => exact ⟨_, step_prologue h, progress_prologueStep hinv h⟩
  | executing =>
    rw [step_executing h]
    exact bodyStep_progress hinv h
  | ended => exact absurd h hs

/-- R134, R135: the run ends within the steps left. -/
theorem run_ends_of_stepsLeft_le : ∀ (m : Nat) {s : State}, s.Inv → s.stepsLeft ≤ m →
    ∃ n t, n ≤ m ∧ Sys2Proof.core.run n s = .next t ∧ t.stage = .ended := by
  intro m
  induction m with
  | zero =>
    intro s hinv hle
    refine ⟨0, s, Nat.le_refl 0, core_run_zero s, by_contra fun hs => ?_⟩
    obtain ⟨t, -, -, hlt⟩ := step_progress hinv hs
    omega
  | succ m ih =>
    intro s hinv hle
    by_cases hs : s.stage = .ended
    · exact ⟨0, s, Nat.zero_le _, core_run_zero s, hs⟩
    · obtain ⟨u, hstep, huinv, hlt⟩ := step_progress hinv hs
      obtain ⟨n, t, hn, hrun, ht⟩ := ih huinv (by omega)
      exact ⟨n + 1, t, Nat.succ_le_succ hn, (core_run_next hstep n).trans hrun, ht⟩

/-! ### A run that has ended -/

section
variable {s : State}

/-- R135, R177: a translation fault is the result, and the next step answers it. -/
theorem ended_of_translation_fault (hs : s.stage = .ended) {f : Fault} (hf : s.trans.fault = some f) :
    s.result = some (.translationFault f) ∧ step s = .fault f := by
  rw [step_ended hs]
  simp only [State.result, endStep, hs, hf, and_self]

/-- R135, R177: an execution fault is the result, and the next step answers it. -/
theorem ended_of_execution_fault (hs : s.stage = .ended) (hnone : s.trans.fault = none) {f : Fault}
    (hf : s.vertex.fault = some f) : s.result = some (.execFault f) ∧ step s = .fault f := by
  rw [step_ended hs]
  simp only [State.result, endStep, hs, hnone, hf, and_self]

/-- R135: without a fault the outputs are the result, and nothing is left to run. -/
theorem ended_of_no_fault (hs : s.stage = .ended) (hnone : s.trans.fault = none) (hvertex : s.vertex.fault = none) :
    s.result = s.outputs.map RunResult.outputs ∧ step s = .refused .runComplete := by
  rw [step_ended hs]
  simp only [State.result, endStep, hs, hnone, hvertex, and_self]

end

/-! ### The epilogue -/

/-- R132: the transform writes R12. -/
theorem transformPosition_position (e : ExecState) : position (transformPosition e) =
    epiloguePos Config.fp (viewportScale e) (viewportOffset e) (position e) :=
  Vector.getElem_set_self ..

/-- R132: the transform keeps every other temporary. -/
theorem transformPosition_temps_ne (e : ExecState) {n : Fin 13} (h : n ≠ 12) :
    (transformPosition e).temps[n] = e.temps[n] :=
  Vector.getElem_set_ne (by decide) n.isLt fun heq => h (Fin.ext heq.symm)

end Sys2Proof.Machine

namespace Sys2Proof.Proofs

open Sys2Proof.Machine

/-- Settles O50: a run that has ended has no next state, and before that `step_progress` gives the next state with its
invariant. -/
theorem stepKeepsInvariant : Obligations.StepKeepsInvariant := by
  intro s t hinv hstep
  have hs : s.stage ≠ .ended := fun hs => endStep_ne_next s t ((step_ended hs).symm.trans hstep)
  obtain ⟨u, hu, hkept, -⟩ := step_progress hinv hs
  cases hu.symm.trans hstep
  exact hkept

/-- Settles O52: by `run_ends_of_stepsLeft_le`, with the bound of `stepsLeft_le`. -/
theorem everyRunEnds : Obligations.EveryRunEnds := fun _ hinv => run_ends_of_stepsLeft_le _ hinv (stepsLeft_le hinv)

/-- Settles O53, by the two forms of an ended run in the invariant and the fault of each. -/
theorem runEndsInOneOfThreeWays : Obligations.RunEndsInOneOfThreeWays := by
  intro s ⟨htrans, hrun⟩ hs
  obtain ⟨hmode, hnone⟩ | ⟨hmode, houtputs⟩ := (runInv_ended hs).1 hrun
  · obtain ⟨hbody, f, hf⟩ := transInv_fault htrans hmode
    exact .inr (.inl ⟨f, hnone, hf, hbody, ended_of_translation_fault hs hf⟩)
  · have hnone := transInv_done htrans hmode
    cases hvertex : s.vertex.fault with
    | none =>
      obtain ⟨o, ho⟩ := Option.isSome_iff_exists.1 (houtputs.2 hvertex)
      obtain ⟨hresult, hstep⟩ := ended_of_no_fault hs hnone hvertex
      rw [ho] at hresult
      exact .inl ⟨o, ho, hnone, rfl, hresult, hstep⟩
    | some f =>
      have hno : s.outputs = none := by
        rw [← Option.not_isSome_iff_eq_none, houtputs, hvertex]
        nofun
      exact .inr (.inr ⟨f, hno, hnone, rfl, ended_of_execution_fault hs hnone hvertex⟩)

/-- Settles O56: past the body the step is the epilogue, which writes R12 alone and wires what the registers then hold. -/
theorem epilogueTransformsAndWires : Obligations.EpilogueTransformsAndWires := by
  intro s hs hpast
  have hstep : step s = .next (epilogueStep s) := by rw [step_executing hs, bodyStep_past (Nat.le_of_eq hpast.symm)]
  exact ⟨_, _, hstep, rfl, rfl, transformPosition_position s.vertex, rfl,
    fun n hn => transformPosition_temps_ne s.vertex hn, rfl, rfl, rfl, rfl, rfl, rfl, rfl, rfl, rfl, rfl, rfl, rfl, rfl⟩

end Sys2Proof.Proofs
end

section
/-! SUPPORT. Proofs of the statements about the MAC unit: its vector instructions complete with the result of their opcode
(R137 to R149), and the spec's example words decode to the instructions it gives for them. -/

namespace Sys2Proof.Machine

/-! ### Lanes of a result -/

/-- R11: every lane of `splat(x)` is x. -/
@[simp] theorem splat_get (x : Lane) (l : Fin 4) : (Vec4.splat x).get l = x := by
  match l with
  | 0 => rfl
  | 1 => rfl
  | 2 => rfl
  | 3 => rfl

@[simp] theorem zipLanes_get (f : Lane → Lane → Lane) (a b : Vec4) (l : Fin 4) :
    (zipLanes f a b).get l = f (a.get l) (b.get l) := by
  match l with
  | 0 => rfl
  | 1 => rfl
  | 2 => rfl
  | 3 => rfl

/-- R141: a lane of MAD's result. -/
@[simp] theorem madResult_get (fp : FP) (a b c : Vec4) (l : Fin 4) :
    (madResult fp a b c).get l = fp.mad (a.get l) (b.get l) (c.get l) := by
  match l with
  | 0 => rfl
  | 1 => rfl
  | 2 => rfl
  | 3 => rfl

/-! ### The value of a statement -/

theorem calc1_of_eval {a : Operand} {s : State} {v : Vec4} (f : Vec4 → Vec4) (ha : evalOperand s a = .ok v) :
    calc1 f a s = .ok (f v) := by
  simp [calc1, ha]

theorem calc2_of_eval {a b : Operand} {s : State} {va vb : Vec4} (f : Vec4 → Vec4 → Vec4)
    (ha : evalOperand s a = .ok va) (hb : evalOperand s b = .ok vb) : calc2 f a b s = .ok (f va vb) := by
  simp [calc2, ha, hb]

theorem calc3_of_eval {a b c : Operand} {s : State} {va vb vc : Vec4} (f : Vec4 → Vec4 → Vec4 → Vec4)
    (ha : evalOperand s a = .ok va) (hb : evalOperand s b = .ok vb) (hc : evalOperand s c = .ok vc) :
    calc3 f a b c s = .ok (f va vb vc) := by
  simp [calc3, ha, hb, hc]

/-! ### Completion -/

section
variable {i : Instr} {a b c : Operand} {rel : State → Vec4 → Prop}

/-- R97, R108: an instruction that runs the statements of `vecWrites` completes where its value is there whenever its
operands can be read: a write keeps A0, so every later statement can read them too. -/
theorem completes_of_value {value : Calc} (hexec : ∀ s, exec i s = finish (runStmts value (vecWrites i) s))
    (hvalue : ∀ s, (∀ o ∈ i.args, Readable s o) → ∃ r, value s = .ok r ∧ rel s r) : Completes i rel := by
  intro s hread hwrite
  obtain ⟨t, ht, hruns⟩ := runStmts_ok hvalue (fun _ _ h ha0 o ho => readable_of_a0 ha0 (h o ho)) _ s hread hwrite
  exact ⟨t, by rw [hexec, ht]; rfl, hruns⟩

theorem completes_calc1 (f : Vec4 → Vec4) (hexec : ∀ s, exec i s = finish (runStmts (calc1 f a) (vecWrites i) s))
    (hargs : i.args = [a]) (hrel : ∀ s v, evalOperand s a = .ok v → rel s (f v)) : Completes i rel := by
  refine completes_of_value hexec fun s hread => ?_
  obtain ⟨v, hv⟩ := evalOperand_of_readable (hread a (by simp [hargs]))
  exact ⟨f v, calc1_of_eval f hv, hrel s v hv⟩

theorem completes_calc2 (f : Vec4 → Vec4 → Vec4)
    (hexec : ∀ s, exec i s = finish (runStmts (calc2 f a b) (vecWrites i) s)) (hargs : i.args = [a, b])
    (hrel : ∀ s va vb, evalOperand s a = .ok va → evalOperand s b = .ok vb → rel s (f va vb)) : Completes i rel := by
  refine completes_of_value hexec fun s hread => ?_
  obtain ⟨va, ha⟩ := evalOperand_of_readable (hread a (by simp [hargs]))
  obtain ⟨vb, hb⟩ := evalOperand_of_readable (hread b (by simp [hargs]))
  exact ⟨f va vb, calc2_of_eval f ha hb, hrel s va vb ha hb⟩

theorem completes_calc3 (f : Vec4 → Vec4 → Vec4 → Vec4)
    (hexec : ∀ s, exec i s = finish (runStmts (calc3 f a b c) (vecWrites i) s)) (hargs : i.args = [a, b, c])
    (hrel : ∀ s va vb vc, evalOperand s a = .ok va → evalOperand s b = .ok vb → evalOperand s c = .ok vc →
      rel s (f va vb vc)) : Completes i rel := by
  refine completes_of_value hexec fun s hread => ?_
  obtain ⟨va, ha⟩ := evalOperand_of_readable (hread a (by simp [hargs]))
  obtain ⟨vb, hb⟩ := evalOperand_of_readable (hread b (by simp [hargs]))
  obtain ⟨vc, hc⟩ := evalOperand_of_readable (hread c (by simp [hargs]))
  exact ⟨f va vb vc, calc3_of_eval f ha hb hc, hrel s va vb vc ha hb hc⟩

/-- An instruction over two operands whose result is formed lane by lane. -/
theorem completes_zipLanes (f : Lane → Lane → Lane)
    (hexec : ∀ s, exec i s = finish (runStmts (calc2 (zipLanes f) a b) (vecWrites i) s)) (hargs : i.args = [a, b]) :
    Completes i (fun u r => ∃ va vb, evalOperand u a = .ok va ∧ evalOperand u b = .ok vb ∧
      ∀ l, r.get l = f (va.get l) (vb.get l)) :=
  completes_calc2 (zipLanes f) hexec hargs fun _ va vb ha hb => ⟨va, vb, ha, hb, zipLanes_get f va vb⟩

/-- An instruction over two operands whose result is one scalar in every lane. -/
theorem completes_splat (f : Vec4 → Vec4 → Lane)
    (hexec : ∀ s, exec i s = finish (runStmts (calc2 (fun va vb => .splat (f va vb)) a b) (vecWrites i) s))
    (hargs : i.args = [a, b]) :
    Completes i (fun u r => ∃ va vb, evalOperand u a = .ok va ∧ evalOperand u b = .ok vb ∧ ∀ l, r.get l = f va vb) :=
  completes_calc2 _ hexec hargs fun _ va vb ha hb => ⟨va, vb, ha, hb, splat_get (f va vb)⟩

end

end Sys2Proof.Machine

namespace Sys2Proof.Proofs

open Sys2Proof.Machine

/-- Settles O14: MOV's result is the value of its operand. -/
theorem macMovCompletes : Obligations.MacMovCompletes := fun _ _ =>
  completes_calc1 movResult (fun _ => rfl) rfl fun _ _ hv => hv

/-- Settles O15: four of the five results zip their operands' lanes; MAD's lanes are `madResult_get`. -/
theorem macPerLaneCompletes : Obligations.MacPerLaneCompletes := by
  intro a b c o
  refine ⟨?mul, ?add, ?mad, ?min, ?max⟩
  case mul => exact completes_zipLanes Config.fp.mul (fun _ => rfl) rfl
  case add => exact completes_zipLanes Config.fp.add (fun _ => rfl) rfl
  case mad =>
    exact completes_calc3 (madResult Config.fp) (fun _ => rfl) rfl fun _ va vb vc ha hb hc =>
      ⟨va, vb, vc, ha, hb, hc, madResult_get Config.fp va vb vc⟩
  case min => exact completes_zipLanes Config.fp.min (fun _ => rfl) rfl
  case max => exact completes_zipLanes Config.fp.max (fun _ => rfl) rfl

/-- Settles O16: each result is one dot product in every lane. -/
theorem macDotProductsComplete : Obligations.MacDotProductsComplete := by
  intro a b o
  refine ⟨?dp3, ?dph, ?dp4⟩
  case dp3 => exact completes_splat (fun va vb => Config.fp.dot3 va.x va.y va.z vb.x vb.y vb.z) (fun _ => rfl) rfl
  case dph => exact completes_splat (fun va vb => Config.fp.dot4 ⟨va.x, va.y, va.z, Config.fp.one⟩ vb) (fun _ => rfl) rfl
  case dp4 => exact completes_splat Config.fp.dot4 (fun _ => rfl) rfl

/-- Settles O17: the four lanes are those of `dstResult`. -/
theorem macDstCompletes : Obligations.MacDstCompletes := fun _ _ _ =>
  completes_calc2 (dstResult Config.fp) (fun _ => rfl) rfl fun _ va vb ha hb => ⟨va, vb, ha, hb, rfl, rfl, rfl, rfl⟩

/-- Settles O18: each result zips its operands' lanes to the exact 1 or 0 of their comparison. -/
theorem macComparisonsComplete : Obligations.MacComparisonsComplete := by
  intro a b o
  refine ⟨?slt, ?sge⟩
  case slt => exact completes_zipLanes (fun x y => truthLane Config.fp (Config.fp.lt x y)) (fun _ => rfl) rfl
  case sge => exact completes_zipLanes (fun x y => truthLane Config.fp (Config.fp.ge x y)) (fun _ => rfl) rfl

/-- Settles O9: the decoder evaluated on each of the four words. -/
theorem knownWordsDecode : Obligations.KnownWordsDecode := by
  refine ⟨?mov, ?add, ?arl, ?rcp⟩
  case mov => decide
  case add => decide
  case arl => decide
  case rcp => decide

end Sys2Proof.Proofs
end

section
/-! SUPPORT. Proofs of the statements about the ILU unit: its instructions complete with the result of their opcode over
operand C (R152 to R159). -/

namespace Sys2Proof.Machine

/-- R152: an instruction over one operand whose result is one scalar in every lane. -/
theorem completes_broadcast {i : Instr} {c : Operand} (f : Vec4 → Lane)
    (hexec : ∀ s, exec i s = finish (runStmts (calc1 (fun v => .splat (f v)) c) (vecWrites i) s))
    (hargs : i.args = [c]) :
    Completes i (fun u r => ∃ v, evalOperand u c = .ok v ∧ ∀ l, r.get l = f v) :=
  completes_calc1 _ hexec hargs fun _ v hv => ⟨v, hv, splat_get (f v)⟩

/-- R155: every lane of RCC's result is the one clamped reciprocal. -/
@[simp] theorem rccResult_get (fp : FP) (a : Vec4) (l : Fin 4) :
    (rccResult fp a).get l = rccLane fp (fp.div fp.one a.x) :=
  splat_get _ l

end Sys2Proof.Machine

namespace Sys2Proof.Proofs

open Sys2Proof.Machine

/-- Settles O22: ILU MOV's result is the value of operand C. -/
theorem iluMovCompletes : Obligations.IluMovCompletes := fun _ _ =>
  completes_calc1 iluMovResult (fun _ => rfl) rfl fun _ _ hv => hv

/-- Settles O23: each result is the broadcast of one scalar of the x lane. -/
theorem iluScalarOpsComplete : Obligations.IluScalarOpsComplete := by
  intro c o
  refine ⟨?rcp, ?rsq, ?exp, ?log⟩
  case rcp => exact completes_broadcast (fun v => Config.fp.div Config.fp.one v.x) (fun _ => rfl) rfl
  case rsq => exact completes_broadcast (fun v => Config.fp.div Config.fp.one (Config.fp.sqrt v.x)) (fun _ => rfl) rfl
  case exp => exact completes_broadcast (fun v => Config.fp.exp2 v.x) (fun _ => rfl) rfl
  case log => exact completes_broadcast (fun v => Config.fp.log2 v.x) (fun _ => rfl) rfl

/-- Settles O24: by `rccResult_get`, the two cases being those of `rccLane` at the reciprocal. -/
theorem iluRccCompletes : Obligations.IluRccCompletes := fun _ _ =>
  completes_calc1 (rccResult Config.fp) (fun _ => rfl) rfl fun _ v hv =>
    ⟨v, _, hv, rfl, rccResult_get Config.fp v⟩

/-- Settles O25: the four lanes are those of `litResult`. -/
theorem iluLitCompletes : Obligations.IluLitCompletes := fun _ _ =>
  completes_calc1 (litResult Config.fp) (fun _ => rfl) rfl fun _ v hv => ⟨v, hv, rfl, rfl, rfl, rfl⟩

end Sys2Proof.Proofs
end

section
/-! SUPPORT. Proofs of the statements about the fault of a destination that names no register (R167, R168, R170, R172,
R175) and about the start of a call and of a vertex invocation (R186, R187, R189, R190). -/

namespace Sys2Proof.Machine

/-! ### The fault of an unwritable destination -/

section
variable {value : Calc} {w : VecDest × Mask} {s : State} {r : Vec4}

/-- R112: once a statement is done, the rest of the unit's statements run from the state it leaves. -/
theorem runStmts_cons_of_ok {u : State} (h : runStmt value w.1 w.2 s = .ok u) (ws : List (VecDest × Mask)) :
    runStmts value (w :: ws) s = runStmts value ws u := by
  simp only [runStmts, h]

/-- R111: a statement with a value and a destination that names a register writes it. -/
theorem runStmt_of_writable (hvalue : value s = .ok r) (hw : w.1.writable) :
    ∃ u, runStmt value w.1 w.2 s = .ok u ∧ Wrote w.1 w.2 r s u := by
  obtain ⟨-, u, hu, hwrote⟩ | ⟨hnot, -⟩ := writeDest_eq w.1 w.2 r s
  · exact ⟨u, by simp only [runStmt, hvalue, hu], hwrote⟩
  · exact absurd hw hnot

/-- R172, R175: a unit's statements stop at once where the first destination names no register, with nothing written. -/
theorem runStmts_of_unwritable (hvalue : value s = .ok r) (hw : ¬w.1.writable) (ws : List (VecDest × Mask)) :
    runStmts value (w :: ws) s = .error (destFault s.slot w.1, s) := by
  obtain ⟨hin, -⟩ | ⟨-, hfault⟩ := writeDest_eq w.1 w.2 r s
  · exact absurd hin hw
  · simp only [runStmts, runStmt, hvalue, hfault]

end

section
variable {i : Instr} {s : State} {w : VecDest × Mask} (harl : i.macOp ≠ some .arl) (hread : ∀ o ∈ i.args, Readable s o)
include harl hread

/-- R172, R175: an instruction whose first destination names no register faults before anything is written. -/
theorem exec_of_unwritable_first {ws : List (VecDest × Mask)} (hwrites : vecWrites i = w :: ws) (hw : ¬w.1.writable) :
    exec i s = .next (takeExecutionFault (destFault s.slot w.1) s) := by
  obtain ⟨value, ⟨hvalue, -⟩, hexec, -⟩ := exec_vector i harl
  obtain ⟨r, hr⟩ := hvalue s hread
  rw [hexec, hwrites, runStmts_of_unwritable hr hw]
  rfl

/-- R108, R172, R175: an instruction whose second destination alone names no register faults in the state it would end in
without that statement: the first write keeps A0, so the second statement can read the operands again. -/
theorem exec_of_unwritable_second {w' : VecDest × Mask} {u : State} (hwrites : vecWrites i = [w, w'])
    (hw : w.1.writable) (hw' : ¬w'.1.writable) (hfirst : exec (withoutNamed i) s = .next u) :
    exec i s = .next (takeExecutionFault (destFault s.slot w'.1) u) := by
  obtain ⟨value, ⟨hvalue, -⟩, hexec, hexecFirst⟩ := exec_vector i harl
  obtain ⟨r, hr⟩ := hvalue s hread
  obtain ⟨t, ht, ⟨-, -, -, -, -, -, hslot, -, -⟩, -, ha0, -⟩ := runStmt_of_writable hr hw
  obtain rfl : t = u := by
    rw [hexecFirst, vecWrites_withoutNamed harl hwrites, runStmts_cons_of_ok ht] at hfirst
    exact Host.Outcome.next.inj hfirst
  obtain ⟨r', hr'⟩ := hvalue t fun o ho => readable_of_a0 ha0 (hread o ho)
  rw [hexec, hwrites, runStmts_cons_of_ok ht, runStmts_of_unwritable hr' hw', hslot]
  rfl

end

/-! ### The start of a call and of a vertex invocation -/

/-- R35, R186: a translation about to start has an empty body and stands at slot 0, whatever the slot stream. -/
theorem transInv_initial (P : List Slot) : TransInv P .initial := by
  have hbody (j : Nat) (r : SlotRecord) : TransState.initial.body[j]? ≠ some r := nofun
  exact ⟨fun j r h => absurd h (hbody j r), fun j r h => absurd h (hbody j r), rfl, Nat.zero_le _, rfl⟩

/-- R190: only a translated program is launched. -/
theorem done_of_launchVertex {L : Launch} {s t : State} (h : launchVertex L s = .next t) : s.trans.mode = .done := by
  cases hmode : s.trans.mode with
  | done => rfl
  | scanning => simp [launchVertex, hmode] at h
  | fault => simp [launchVertex, hmode] at h

/-- R35: each temporary of a vertex invocation starts at (0,0,0,1). -/
theorem atLaunch_temps (L : Launch) (n : Fin 13) : (ExecState.atLaunch L).temps[n] = resetVec :=
  Vector.getElem_replicate ..

/-- R28, R35: each further output of a vertex invocation starts at (0,0,0,1). -/
theorem atLaunch_outValue (L : Launch) (o : OutReg) : outValue (.atLaunch L) o = resetVec :=
  Vector.getElem_replicate ..

end Sys2Proof.Machine

namespace Sys2Proof.Proofs

open Sys2Proof.Machine

/-- Settles O30: the two clauses are `exec_of_unwritable_first` and `exec_of_unwritable_second`. -/
theorem unwritableDestinationFaults : Obligations.UnwritableDestinationFaults := fun _ _ harl hread =>
  ⟨fun _ _ => exec_of_unwritable_first harl hread, fun _ _ _ => exec_of_unwritable_second harl hread⟩

/-- Settles O51: a load starts a fresh translation, and a launch keeps the translator, which it requires to be DONE. -/
theorem hostCallsKeepInvariant : Obligations.HostCallsKeepInvariant := by
  refine fun s t => ⟨fun words tag h => ?load, fun L ⟨htrans, _⟩ h => ?launch⟩
  case load =>
    obtain ⟨P, rfl⟩ := load_eq_next h
    exact ⟨transInv_initial P, (runInv_translating rfl).2 ⟨rfl, rfl⟩⟩
  case launch =>
    have hdone := done_of_launchVertex h
    obtain rfl := launchVertex_eq_next h
    exact ⟨htrans, (runInv_prologue rfl).2 ⟨hdone, rfl⟩⟩

/-- Settles O54: the step is `prologueStep`, whose vertex state is `ExecState.atLaunch` of the launch inputs. -/
theorem prologueDeclaresState : Obligations.PrologueDeclaresState := fun s hs =>
  ⟨prologueStep s, step_prologue hs, atLaunch_temps s.launch, rfl, atLaunch_outValue s.launch,
    rfl, rfl, rfl, rfl, rfl, rfl, rfl, rfl⟩

end Sys2Proof.Proofs
end
